-- ==== Sys2Proof/Word.lean ====
section
/-! DEFINITION. The words of the hardware: bytes, byte sequences and the 16-bit quantities (rules R7, R8). -/

namespace Sys2Proof

/-- A byte: 8 bits, an unsigned value 0 to 255 (R7). -/
abbrev Byte := BitVec 8

/-- A byte sequence; index 0 is the first byte written, sent or received (R8, R32). -/
abbrev Bytes := List Byte

/-- The 16-bit quantities: a tag value, a length, `PLEN`, a key (R14, R19, R22). -/
abbrev Half := BitVec 16

end Sys2Proof
end

