-- ==== Sys2Proof/Config.lean ====
section
/-! DEFINITION. What the document fixes (the constants of R5) and what an implementation fixes (the parameters of R6). -/

namespace Sys2Proof.Config

/-- `CHUNK`: payload bytes in every non-final packet of a chained build (R5). -/
abbrev chunk : Nat := 254
/-- `CHAIN_CLA`: class byte of every non-final packet, whatever the caller's class byte (R5, R49). -/
abbrev chainCla : Byte := 0x10
/-- `CHAIN_LC`: length byte of every non-final packet (R5, R49). -/
abbrev chainLc : Byte := 0xFE
/-- `EXT1_MAX`: largest payload an extended build announces in one byte (R5, R50). -/
abbrev ext1Max : Nat := 255
/-- `EXT_MARK`: the byte that opens the three-byte length of an extended build (R5, R51). -/
abbrev extMark : Byte := 0x00
/-- `SW_OK`, first byte (R5, R56). -/
abbrev swOk1 : Byte := 0x90
/-- `SW_OK`, second byte (R5, R56). -/
abbrev swOk2 : Byte := 0x00
/-- `SW1_MORE`: sw1 of "sw2 more bytes waiting" (R5, R56). -/
abbrev sw1More : Byte := 0x61
/-- `REPLY_MIN`: least length of a raw reply (R5, R98). -/
abbrev replyMin : Nat := 2
/-- `TAG_EXT`: mask and value of the low five bits that announce a second tag byte (R5, R58). -/
abbrev tagExt : Byte := 0x1F
/-- `TAG_CONS`: the constructed bit of the first tag byte (R5, R58). -/
abbrev tagCons : Byte := 0x20
/-- `TAG2_MASK`: mask applied to the second tag byte when the tag value is formed (R5, R60). -/
abbrev tag2Mask : Byte := 0x7F
/-- `LEN_ONE`: long-form mark followed by one length byte (R5, R63). -/
abbrev lenOne : Byte := 0x81
/-- `LEN_TWO`: long-form mark followed by two length bytes, big-endian (R5, R64). -/
abbrev lenTwo : Byte := 0x82
/-- `FILL`, first value: filler between objects (R5, R66). -/
abbrev fill0 : Byte := 0x00
/-- `FILL`, second value (R5, R66). -/
abbrev fillF : Byte := 0xFF
/-- `PAYLOAD_MAX`: largest payload either build accepts, decided by the spec (R6, D5). -/
abbrev payloadMax : Nat := 65535

/-- The parameter `TAIL` (R6, D7): what a constructed object decoded recursively leaves as remainder. -/
inductive Tail where
  /-- nothing: the document's literal text, the default -/
  | drop
  /-- the bytes after the value -/
  | keep
deriving DecidableEq, Repr

/-- The parameters the spec leaves OPEN (R6). `none` in a bound is "unbounded". They are no state (R111): the
machine carries one value of this type and no step writes it (log entry 1). -/
structure Params where
  /-- `TAIL` (D7) -/
  tail : Tail
  /-- `DEPTH_MAX` (D9): greatest nesting depth the decoder follows -/
  depthMax : Option Nat
  /-- `RBUF_MAX` (D10): longest raw reply -/
  rbufMax : Option Nat
  /-- `IBUF_MAX` (D10): longest decode buffer -/
  ibufMax : Option Nat
  /-- `NODE_MAX` (D10): greatest number of nodes of the forest store -/
  nodeMax : Option Nat
deriving DecidableEq, Repr

/-- The defaults of R6: `TAIL = DROP`, no bound anywhere. -/
def defaults : Params :=
  { tail := .drop, depthMax := none, rbufMax := none, ibufMax := none, nodeMax := none }

end Sys2Proof.Config
end

