-- ==== Sys2Proof/Machine/Wire.lean ====
section
/-! DEFINITION. The wire formats: how fields are cut out of bytes and assembled (R33, R58 to R68) and the byte layout of every
packet form (R47 to R51). Used by the decoder, the encoder, the framer, the reply splitter and the TLV decoder alike. -/

namespace Sys2Proof.Machine

/-- `zext_16` of a byte (R7). -/
def zext16 (b : Byte) : Half := b.setWidth 16

/-- Two bytes as a 16-bit value, big-endian: the first byte is the more significant one (R33). -/
def bigEndian (hi lo : Byte) : Half := (zext16 hi <<< 8) ||| zext16 lo

/-- `N[7:0]` of a length as one byte (R48, R51). -/
def lowByte (n : Nat) : Byte := BitVec.ofNat 8 n

/-- `N[15:8]` of a length as one byte (R51). -/
def highByte (n : Nat) : Byte := BitVec.ofNat 8 (n / 256)

/-- The low five bits of a tag byte are all set: a second tag byte follows (first byte), or the tag is illegal (second byte) (R58, R61). -/
def lowFiveSet (b : Byte) : Bool := b &&& Config.tagExt == Config.tagExt

/-- The constructed bit, bit 5 of the FIRST tag byte (R58). -/
def isConstructed (b0 : Byte) : Bool := b0 &&& Config.tagCons == Config.tagCons

/-- The value of a one-byte tag (R59). -/
def oneByteTag (b0 : Byte) : Half := zext16 b0

/-- The value of a two-byte tag: bit 7 of the second byte is dropped (R60, conflict C8). -/
def twoByteTag (b0 b1 : Byte) : Half := (zext16 b0 <<< 8) ||| zext16 (b1 &&& Config.tag2Mask)

/-- A length byte of the short form, below 0x80 (R62). -/
def isShortLength (l0 : Byte) : Bool := decide (l0.toNat < 0x80)

/-- An illegal first length byte: 0x80, or 0x83 to 0xFF (R65). -/
def isBadLength (l0 : Byte) : Bool := !isShortLength l0 && l0 != Config.lenOne && l0 != Config.lenTwo

/-- A filler byte, where an object may start (R66). -/
def isFiller (b : Byte) : Bool := b == Config.fill0 || b == Config.fillF

/-- The constructed flag recovered from a tag value: bit 13 of a two-byte tag, bit 5 of a one-byte tag (R19). -/
def tagConstructed (t : Half) : Bool := if 0x00FF < t.toNat then t.getLsbD 13 else t.getLsbD 5

/-- The tag values a decoder can produce (R67 (d)). -/
def tagProducible (t : Half) : Bool :=
  if t.toNat ≤ 0x00FF then !lowFiveSet (t.setWidth 8)
  else lowFiveSet ((t >>> 8).setWidth 8) && !t.getLsbD 7 && !lowFiveSet (t.setWidth 8)

/-- Every packet is header, length field and payload slice, and nothing else (R47, R52). -/
def packet (cla ins p1 p2 : Byte) (lengthField slice : Bytes) : Bytes :=
  [cla, ins, p1, p2] ++ lengthField ++ slice

/-- Form `PKT.CHAIN` (R49): the literal class byte 0x10 and the literal length byte 0xFE. -/
def chainPacket (ins p1 p2 : Byte) (slice : Bytes) : Bytes :=
  packet Config.chainCla ins p1 p2 [Config.chainLc] slice

/-- Forms `PKT.FINAL` and `PKT.EXT1` (R48, R50: "same layout"): the slice's length as one byte. -/
def shortPacket (cla ins p1 p2 : Byte) (slice : Bytes) : Bytes :=
  packet cla ins p1 p2 [lowByte slice.length] slice

/-- Form `PKT.EXT3` (R51): the marker 0x00 and the payload's length, big-endian. -/
def longPacket (cla ins p1 p2 : Byte) (payload : Bytes) : Bytes :=
  packet cla ins p1 p2 [Config.extMark, highByte payload.length, lowByte payload.length] payload

/-- A slice `PKT.FINAL` carries: 0 to 254 bytes (R48). -/
def fitsFinal (slice : Bytes) : Bool := decide (slice.length ≤ Config.chunk)
/-- A slice `PKT.CHAIN` carries: exactly 254 bytes (R49). -/
def fitsChain (slice : Bytes) : Bool := decide (slice.length = Config.chunk)
/-- A payload `PKT.EXT1` carries: 0 to 255 bytes (R50). -/
def fitsExt1 (payload : Bytes) : Bool := decide (payload.length ≤ Config.ext1Max)
/-- A payload `PKT.EXT3` carries: 256 to 65535 bytes (R51). -/
def fitsExt3 (payload : Bytes) : Bool :=
  decide (Config.ext1Max < payload.length ∧ payload.length ≤ Config.payloadMax)

/-- A raw reply cut into data, sw1 and sw2: the last two bytes are the status, in that order (R55). Fewer than two bytes are no reply. -/
def splitReply (raw : Bytes) : Option (Bytes × Byte × Byte) :=
  if raw.length < Config.replyMin then none
  else some (raw.take (raw.length - 2), raw.getD (raw.length - 2) 0, raw.getD (raw.length - 1) 0)

/-- The success pair, both bytes compared, in order (R56). -/
def isOkPair (sw1 sw2 : Byte) : Bool := sw1 == Config.swOk1 && sw2 == Config.swOk2

/-- The pair (0x61, n) (R56). -/
def isMorePair (sw1 : Byte) : Bool := sw1 == Config.sw1More

end Sys2Proof.Machine
end

