-- ==== Sys2Proof/Syntax.lean ====
section
/-! DEFINITION. The requests and wire forms of the block: one constructor per row of spec/opcode_table.json (R46, R70). -/

namespace Sys2Proof

/-- The eight operations of R46 and the seventeen wire forms of R48 to R66, in the table's order. -/
inductive Instr where
  /-- `FRM.BUILD cla, ins, p1, p2, payload` (R71) -/
  | frmBuild (cla ins p1 p2 : Byte) (payload : Bytes)
  /-- `FRM.BUILDX cla, ins, p1, p2, payload` (R72) -/
  | frmBuildx (cla ins p1 p2 : Byte) (payload : Bytes)
  /-- `RSP.PARSE raw` (R77) -/
  | rspParse (raw : Bytes)
  /-- `RSP.OKAY` (R78) -/
  | rspOkay
  /-- `RSP.AVAIL` (R79) -/
  | rspAvail
  /-- `TLV.ONE buf, rec` (R84) -/
  | tlvOne (buf : Bytes) (recursive : Bool)
  /-- `TLV.LIST buf, rec` (R85) -/
  | tlvList (buf : Bytes) (recursive : Bool)
  /-- `TLV.FIND key` (R91) -/
  | tlvFind (key : Half)
  /-- `PKT.FINAL`: the last packet of a chained build (R48); `Lc` is the length of the slice -/
  | pktFinal (cla ins p1 p2 : Byte) (slice : Bytes)
  /-- `PKT.CHAIN`: a non-final packet of a chained build (R49) -/
  | pktChain (ins p1 p2 : Byte) (slice : Bytes)
  /-- `PKT.EXT1`: the packet of an extended build with a one-byte length (R50) -/
  | pktExt1 (cla ins p1 p2 : Byte) (payload : Bytes)
  /-- `PKT.EXT3`: the packet of an extended build with a marker and a two-byte length (R51) -/
  | pktExt3 (cla ins p1 p2 : Byte) (payload : Bytes)
  /-- `RPL`: a raw reply, data and two status bytes (R55) -/
  | rpl (data : Bytes) (sw1 sw2 : Byte)
  /-- `SW.OK`: the success status pair (R56) -/
  | swOk
  /-- `SW.MORE`: the status pair (0x61, n) (R56) -/
  | swMore (n : Byte)
  /-- `SW.OTHER`: any other status pair (R56) -/
  | swOther (sw1 sw2 : Byte)
  /-- `TAG1`: a one-byte tag field (R59) -/
  | tag1 (b0 : Byte)
  /-- `TAG2`: a two-byte tag field (R60) -/
  | tag2 (b0 b1 : Byte)
  /-- `TAG.BAD`: an illegal tag field (R61) -/
  | tagBad (b0 b1 : Byte)
  /-- `LEN.SHORT`: a short-form length field (R62) -/
  | lenShort (l0 : Byte)
  /-- `LEN.ONE`: 0x81 and one length byte (R63) -/
  | lenOne (l1 : Byte)
  /-- `LEN.TWO`: 0x82 and two length bytes (R64) -/
  | lenTwo (l1 l2 : Byte)
  /-- `LEN.BAD`: an illegal first length byte (R65) -/
  | lenBad (l0 : Byte)
  /-- `FILL.00`: the filler byte 0x00 (R66) -/
  | fill00
  /-- `FILL.FF`: the filler byte 0xFF (R66) -/
  | fillFF
deriving DecidableEq, Repr

/-- Where a byte sequence stands, which decides how it is read: the spec's formats are told apart by position, not
by their bytes alone (R47, R54, R66; the "format" column of the table). -/
inductive Space where
  /-- a request to the block: operation select and operands (R46) -/
  | op
  /-- a packet of a chained build, the last of its list or not (R54) -/
  | chained (last : Bool)
  /-- the packet of an extended build (R54) -/
  | extended
  /-- a whole raw reply (R55) -/
  | reply
  /-- a status pair (R56) -/
  | status
  /-- the tag field of a TLV object (R58) -/
  | tag
  /-- the length field of a TLV object (R57) -/
  | len
  /-- a filler byte where `TLV.LIST` expects an object (R66) -/
  | fill
deriving DecidableEq, Repr

/-- Bytes handed to the block, with the place they stand at. -/
structure Request where
  /-- the place -/
  space : Space
  /-- the bytes, first byte first (R32) -/
  bytes : Bytes
deriving DecidableEq, Repr

/-- Why the decoder rejects a request. -/
inductive Reject where
  /-- no byte at all -/
  | noBytes
  /-- the select byte of a request holds more than the 3 bits of `OP` (R46) -/
  | badSelect
  /-- the bytes end before the operands or fields do -/
  | tooShort
  /-- bytes are left after the last operand or field -/
  | tooLong
  /-- the flag byte `rec` of a TLV request is neither 0 nor 1 (R46: `rec` is 1 bit) -/
  | badFlag
  /-- a length field does not agree with the bytes that follow it (R48 to R51) -/
  | badLength
  /-- the bytes are no form of this space (R49, R59 to R66) -/
  | noSuchForm
deriving DecidableEq, Repr

end Sys2Proof
end

