-- ==== Sys2Proof/WellFormed.lean ====
section
/-! DEFINITION. Which terms of `Instr` the spec has: operand ranges (R14, R46) and the ranges that make a form that form (R48 to R66). -/

namespace Sys2Proof

open Machine in
/-- The instruction is one the spec gives: each operand in the range its rule states. -/
def Instr.wellFormed : Instr → Bool
  | .frmBuild _ _ _ _ payload => decide (payload.length ≤ Config.payloadMax)
  | .frmBuildx _ _ _ _ payload => decide (payload.length ≤ Config.payloadMax)
  | .rspParse _ => true
  | .rspOkay => true
  | .rspAvail => true
  | .tlvOne _ _ => true
  | .tlvList _ _ => true
  | .tlvFind _ => true
  | .pktFinal _ _ _ _ slice => fitsFinal slice
  | .pktChain _ _ _ slice => fitsChain slice
  | .pktExt1 _ _ _ _ payload => fitsExt1 payload
  | .pktExt3 _ _ _ _ payload => fitsExt3 payload
  | .rpl _ _ _ => true
  | .swOk => true
  | .swMore _ => true
  | .swOther sw1 sw2 => !isOkPair sw1 sw2 && !isMorePair sw1
  | .tag1 b0 => !lowFiveSet b0
  | .tag2 b0 b1 => lowFiveSet b0 && !lowFiveSet b1
  | .tagBad b0 b1 => lowFiveSet b0 && lowFiveSet b1
  | .lenShort l0 => isShortLength l0
  | .lenOne _ => true
  | .lenTwo _ _ => true
  | .lenBad l0 => isBadLength l0
  | .fill00 => true
  | .fillFF => true

end Sys2Proof
end

