-- ==== Sys2Proof/Decode.lean ====
section
/-! DEFINITION. Decoding a request (total on any bytes, rejecting by name) and, after it, the encoder, from the same formats:
the operation select and operands of R46, the packet forms of R48 to R51 told apart as R54 says, the reply of R55, the status
pairs of R56, the tag, length and filler forms of R58 to R66. How the bytes of an OP request travel is the model's (log entry 3). -/

namespace Sys2Proof

open Machine

/-- The flag byte of a TLV request: `rec` is one bit (R46). -/
def decodeFlag (b : Byte) : Except Reject Bool :=
  if b = 0 then .ok false else if b = 1 then .ok true else .error .badFlag

/-- A request of R46: the select byte, then the operands in the table's order, one-byte operands first, a byte sequence
taking all the bytes that are left. -/
def decodeOp (bytes : Bytes) : Except Reject Instr :=
  match bytes with
  | [] => .error .noBytes
  | sel :: operands =>
    match sel.toNat, operands with
    | 0, cla :: ins :: p1 :: p2 :: payload => .ok (.frmBuild cla ins p1 p2 payload)
    | 0, _ => .error .tooShort
    | 1, cla :: ins :: p1 :: p2 :: payload => .ok (.frmBuildx cla ins p1 p2 payload)
    | 1, _ => .error .tooShort
    | 2, raw => .ok (.rspParse raw)
    | 3, [] => .ok .rspOkay
    | 3, _ => .error .tooLong
    | 4, [] => .ok .rspAvail
    | 4, _ => .error .tooLong
    | 5, flag :: buf => (decodeFlag flag).map (Instr.tlvOne buf)
    | 5, [] => .error .tooShort
    | 6, flag :: buf => (decodeFlag flag).map (Instr.tlvList buf)
    | 6, [] => .error .tooShort
    | 7, [hi, lo] => .ok (.tlvFind (bigEndian hi lo))
    | 7, _ :: _ :: _ :: _ => .error .tooLong
    | 7, _ => .error .tooShort
    | _, _ => .error .badSelect

/-- A packet of a chained build: `PKT.CHAIN` exactly if it is not the last of its list (R54). -/
def decodeChained (last : Bool) (bytes : Bytes) : Except Reject Instr :=
  match bytes with
  | cla :: ins :: p1 :: p2 :: lc :: slice =>
    if slice.length ≠ lc.toNat then .error .badLength
    else if last then
      if fitsFinal slice then .ok (.pktFinal cla ins p1 p2 slice) else .error .noSuchForm
    else if cla = Config.chainCla ∧ lc = Config.chainLc then .ok (.pktChain ins p1 p2 slice)
    else .error .noSuchForm
  | [] => .error .noBytes
  | _ => .error .tooShort

/-- The packet of an extended build: the byte 0x00 at index 4 is a marker only when bytes follow it (R54). -/
def decodeExtended (bytes : Bytes) : Except Reject Instr :=
  match bytes with
  | cla :: ins :: p1 :: p2 :: lc :: rest =>
    if lc = Config.extMark ∧ rest ≠ [] then
      match rest with
      | hi :: lo :: payload =>
        if payload.length = (bigEndian hi lo).toNat then .ok (.pktExt3 cla ins p1 p2 payload)
        else .error .badLength
      | _ => .error .tooShort
    else if rest.length = lc.toNat then .ok (.pktExt1 cla ins p1 p2 rest)
    else .error .badLength
  | [] => .error .noBytes
  | _ => .error .tooShort

/-- A whole raw reply (R55). -/
def decodeReply (bytes : Bytes) : Except Reject Instr :=
  match splitReply bytes with
  | some (data, sw1, sw2) => .ok (.rpl data sw1 sw2)
  | none => .error .tooShort

/-- The class of a status pair, "a direct match against literal byte pairs" (R56). -/
def classifyStatus (sw1 sw2 : Byte) : Instr :=
  if isOkPair sw1 sw2 then .swOk
  else if isMorePair sw1 then .swMore sw2
  else .swOther sw1 sw2

/-- A status pair (R56). -/
def decodeStatus (bytes : Bytes) : Except Reject Instr :=
  match bytes with
  | [sw1, sw2] => .ok (classifyStatus sw1 sw2)
  | [] => .error .noBytes
  | [_] => .error .tooShort
  | _ => .error .tooLong

/-- The tag field of an object (R58 to R61). -/
def decodeTagField (bytes : Bytes) : Except Reject Instr :=
  match bytes with
  | [] => .error .noBytes
  | [b0] => if lowFiveSet b0 then .error .tooShort else .ok (.tag1 b0)
  | [b0, b1] =>
    if !lowFiveSet b0 then .error .tooLong
    else if lowFiveSet b1 then .ok (.tagBad b0 b1) else .ok (.tag2 b0 b1)
  | _ => .error .tooLong

/-- The length field of an object (R62 to R65). -/
def decodeLenField (bytes : Bytes) : Except Reject Instr :=
  match bytes with
  | [] => .error .noBytes
  | [l0] =>
    if isShortLength l0 then .ok (.lenShort l0)
    else if isBadLength l0 then .ok (.lenBad l0) else .error .tooShort
  | [l0, l1] =>
    if l0 = Config.lenOne then .ok (.lenOne l1)
    else if l0 = Config.lenTwo then .error .tooShort else .error .tooLong
  | [l0, l1, l2] => if l0 = Config.lenTwo then .ok (.lenTwo l1 l2) else .error .tooLong
  | _ => .error .tooLong

/-- A filler byte (R66). -/
def decodeFill (bytes : Bytes) : Except Reject Instr :=
  match bytes with
  | [] => .error .noBytes
  | [b] =>
    if b = Config.fill0 then .ok .fill00
    else if b = Config.fillF then .ok .fillFF else .error .noSuchForm
  | _ => .error .tooLong

/-- What a request asks for: the place its bytes stand at decides which formats are tried (R47, R54, R66). -/
def decode (r : Request) : Except Reject Instr :=
  match r.space with
  | .op => decodeOp r.bytes
  | .chained last => decodeChained last r.bytes
  | .extended => decodeExtended r.bytes
  | .reply => decodeReply r.bytes
  | .status => decodeStatus r.bytes
  | .tag => decodeTagField r.bytes
  | .len => decodeLenField r.bytes
  | .fill => decodeFill r.bytes

/-- One bit as a byte (R46, `rec`). -/
def flagByte (flag : Bool) : Byte := if flag then 1 else 0

/-- The bytes of an instruction and the place they stand at. -/
def encode (i : Instr) : Request :=
  match i with
  | .frmBuild cla ins p1 p2 payload => ⟨.op, 0 :: cla :: ins :: p1 :: p2 :: payload⟩
  | .frmBuildx cla ins p1 p2 payload => ⟨.op, 1 :: cla :: ins :: p1 :: p2 :: payload⟩
  | .rspParse raw => ⟨.op, 2 :: raw⟩
  | .rspOkay => ⟨.op, [3]⟩
  | .rspAvail => ⟨.op, [4]⟩
  | .tlvOne buf flag => ⟨.op, 5 :: flagByte flag :: buf⟩
  | .tlvList buf flag => ⟨.op, 6 :: flagByte flag :: buf⟩
  | .tlvFind key => ⟨.op, [7, highByte key.toNat, lowByte key.toNat]⟩
  | .pktFinal cla ins p1 p2 slice => ⟨.chained true, shortPacket cla ins p1 p2 slice⟩
  | .pktChain ins p1 p2 slice => ⟨.chained false, chainPacket ins p1 p2 slice⟩
  | .pktExt1 cla ins p1 p2 payload => ⟨.extended, shortPacket cla ins p1 p2 payload⟩
  | .pktExt3 cla ins p1 p2 payload => ⟨.extended, longPacket cla ins p1 p2 payload⟩
  | .rpl data sw1 sw2 => ⟨.reply, data ++ [sw1, sw2]⟩
  | .swOk => ⟨.status, [Config.swOk1, Config.swOk2]⟩
  | .swMore n => ⟨.status, [Config.sw1More, n]⟩
  | .swOther sw1 sw2 => ⟨.status, [sw1, sw2]⟩
  | .tag1 b0 => ⟨.tag, [b0]⟩
  | .tag2 b0 b1 => ⟨.tag, [b0, b1]⟩
  | .tagBad b0 b1 => ⟨.tag, [b0, b1]⟩
  | .lenShort l0 => ⟨.len, [l0]⟩
  | .lenOne l1 => ⟨.len, [Config.lenOne, l1]⟩
  | .lenTwo l1 l2 => ⟨.len, [Config.lenTwo, l1, l2]⟩
  | .lenBad l0 => ⟨.len, [l0]⟩
  | .fill00 => ⟨.fill, [Config.fill0]⟩
  | .fillFF => ⟨.fill, [Config.fillF]⟩

/-! ## The opcode table's numbered words

The table numbers an OP row's bits from the first byte up (the select in bits 2 to 0) and a wire form's bits from its LAST byte
up ("byte 0 most significant", the notes of its rows); it says nothing of the place the bytes stand at. `tableRequest` gives
the place back: by the width, then by the row with the most fixed bits that fits (log entry 6). -/

/-- Byte `k` of a number, byte 0 the least significant one. -/
def byteOf (w k : Nat) : Byte := BitVec.ofNat 8 (w / 256 ^ k)

/-- The operands an OP row's word leaves out are bytes of zero: filled up to the fixed operands of that operation (R46). -/
def padOperands (sel : Byte) (operands : Bytes) : Bytes :=
  let least :=
    match sel.toNat with
    | 0 => 4
    | 1 => 4
    | 5 => 1
    | 6 => 1
    | 7 => 2
    | _ => 0
  operands ++ List.replicate (least - operands.length) 0

/-- The request an OP row's word stands for. -/
def opRequest (sel : Byte) (operands : Bytes) : Request := ⟨.op, sel :: padOperands sel operands⟩

/-- The length field a first length byte opens, the bytes above it zero (R62 to R65). -/
def lenRequest (l0 : Byte) : Request :=
  ⟨.len, l0 :: List.replicate (if l0 = Config.lenOne then 1 else if l0 = Config.lenTwo then 2 else 0) 0⟩

/-- The packet of an extended build whose five or seven leading bytes are given, its payload bytes zero (R50, R51). -/
def extendedRequest (cla ins p1 p2 hi lo : Byte) : Request :=
  ⟨.extended, [cla, ins, p1, p2, Config.extMark, hi, lo] ++ List.replicate (bigEndian hi lo).toNat 0⟩

/-- The request that a row's word of `nbits` bits stands for. -/
def tableRequest (nbits w : Nat) : Request :=
  if nbits ≤ 8 then
    if w = 0x00 ∨ w = 0xFF then ⟨.fill, [byteOf w 0]⟩
    else if w < 8 then opRequest (byteOf w 0) []
    else lenRequest (byteOf w 0)
  else if nbits ≤ 16 then
    if lowFiveSet (byteOf w 1) then ⟨.tag, [byteOf w 1, byteOf w 0]⟩
    else if isMorePair (byteOf w 1) ∨ isOkPair (byteOf w 1) (byteOf w 0) then ⟨.status, [byteOf w 1, byteOf w 0]⟩
    else if w % 256 < 8 then opRequest (byteOf w 0) [byteOf w 1]
    else ⟨.status, [byteOf w 1, byteOf w 0]⟩
  else if nbits ≤ 24 then
    if w % 256 = 7 then opRequest (byteOf w 0) [byteOf w 1, byteOf w 2]
    else extendedRequest 0 0 0 0 (byteOf w 1) (byteOf w 0)
  else if nbits ≤ 40 then
    if byteOf w 4 = Config.chainCla ∧ byteOf w 0 = Config.chainLc then
      ⟨.chained false, [byteOf w 4, byteOf w 3, byteOf w 2, byteOf w 1, byteOf w 0] ++ List.replicate 254 0⟩
    else if byteOf w 0 = 0xFF then
      ⟨.extended, [byteOf w 4, byteOf w 3, byteOf w 2, byteOf w 1, byteOf w 0] ++ List.replicate 255 0⟩
    else
      ⟨.chained true, [byteOf w 4, byteOf w 3, byteOf w 2, byteOf w 1, byteOf w 0] ++ List.replicate (byteOf w 0).toNat 0⟩
  else extendedRequest (byteOf w 6) (byteOf w 5) (byteOf w 4) (byteOf w 3) (byteOf w 1) (byteOf w 0)

/-- What the decoder reads from a table row's word. -/
def decodeTableWord (nbits w : Nat) : Option Instr := (decode (tableRequest nbits w)).toOption

end Sys2Proof
end

