-- ==== Sys2Proof/Machine/State.lean ====
section
/-! DEFINITION. The state of the block: every register of 10_state.md, the hidden state of an operation in flight (R25, R26),
the outcome handed to the host (R10), the host's pending requests, and the parameters of R6; and the reasons a step can stop. -/

namespace Sys2Proof.Machine

/-- A list of sibling TLV nodes with their children (R19, R21): empty, or a first node (tag, length, value, children) and the
siblings after it. The spec's `subs : list of Node` and `FOREST` are both of this type. -/
inductive Forest where
  /-- no node -/
  | nil
  /-- a first node and the rest of the list -/
  | cons (tag length : Half) (value : Bytes) (subs rest : Forest)
deriving DecidableEq, Repr

/-- One TLV node (R19). -/
structure Node where
  /-- 16 bits, one or two tag bytes -/
  tag : Half
  /-- 16 bits -/
  length : Half
  /-- "exact byte slice of that length" -/
  value : Bytes
  /-- the ordered child list, may be empty -/
  subs : Forest
deriving DecidableEq, Repr

/-- The fault kinds of R98 to R102. -/
inductive FaultKind where
  /-- a reply of 0 or 1 bytes (R98) -/
  | tooShortReply
  /-- a tag claims a third byte (R99) -/
  | badTagExtension
  /-- first length byte 0x80 or 0x83 to 0xFF (R100) -/
  | badLength
  /-- a read past the end of the buffer being decoded (R101) -/
  | truncated
  /-- nesting beyond a finite `DEPTH_MAX` (R102) -/
  | depthExceeded
deriving DecidableEq, Repr

/-- The command group (R13 to R16). -/
structure CommandRegs where
  /-- `CV`: the group holds a command and its packets (R15) -/
  cv : Bool
  /-- `FMODE`: false if written by `FRM.BUILD`, true if by `FRM.BUILDX` (R15) -/
  fmode : Bool
  /-- `CLA` (R13) -/
  cla : Byte
  /-- `INS` (R13) -/
  ins : Byte
  /-- `P1` (R13) -/
  p1 : Byte
  /-- `P2` (R13) -/
  p2 : Byte
  /-- `PLEN` (R14) -/
  plen : Half
  /-- `PBUF` (R14) -/
  pbuf : Bytes
  /-- `PKTN` (R16) -/
  pktn : Nat
  /-- `PKTQ` (R16) -/
  pktq : List Bytes
deriving DecidableEq, Repr

/-- The response group (R17); its flags have no storage (R18, `Flags.lean`). -/
structure ResponseRegs where
  /-- `RV`: the group holds a response -/
  rv : Bool
  /-- `DATA` -/
  data : Bytes
  /-- `DLEN` -/
  dlen : Nat
  /-- `SW1` -/
  sw1 : Byte
  /-- `SW2` -/
  sw2 : Byte
deriving DecidableEq, Repr

/-- The forest group (R21). -/
structure ForestRegs where
  /-- `FV`: the group holds a result -/
  fv : Bool
  /-- `FOREST` -/
  forest : Forest
  /-- `REM` -/
  rem : Bytes
deriving DecidableEq, Repr

/-- The lookup group (R22). -/
structure LookupRegs where
  /-- a `TLV.FIND` has run, "the fact" that guards `KEY` (R29); the model's own bit -/
  keyed : Bool
  /-- `KEY` -/
  key : Half
  /-- `HIT` -/
  hit : Bool
  /-- `FOUND`, defined only while `HIT` -/
  found : Node
deriving DecidableEq, Repr

/-- The framer's hidden state while packets are written (R25 (a), R26). -/
structure FramerWork where
  /-- the chunk index `k`, counting from 1 -/
  k : Nat
  /-- the packets finished so far, `Q` of R71 -/
  packets : List Bytes
  /-- the packet under construction -/
  packet : Bytes
deriving DecidableEq, Repr

/-- One frame of the decoder's recursion stack (R26). -/
structure Frame where
  /-- the value slice being decoded -/
  slice : Bytes
  /-- its cursor `pos` (R25 (b)) -/
  pos : Nat
  /-- its children so far -/
  kids : List Node
deriving DecidableEq, Repr

/-- The decoder's hidden state (R25 (b), R26): the recursion stack, innermost level first, and the fields of the object being
decoded that the steps of R81 and R82 have returned. -/
structure DecoderWork where
  /-- the recursion stack -/
  frames : List Frame
  /-- the tag read (R81) -/
  tag : Half
  /-- the constructed flag read (R81) -/
  constructed : Bool
  /-- the length read (R82) -/
  length : Half
deriving DecidableEq, Repr

/-- What a finished operation hands to the host (R10, R46 column "result"). -/
inductive Result where
  /-- `FRM.BUILD`, `FRM.BUILDX`: the packet list -/
  | packets (q : List Bytes)
  /-- `RSP.PARSE` -/
  | response (data : Bytes) (sw1 sw2 : Byte)
  /-- `RSP.OKAY` -/
  | okay (flag : Bool)
  /-- `RSP.AVAIL` -/
  | avail (count : Option Byte)
  /-- `TLV.ONE` -/
  | one (node : Node) (remainder : Bytes)
  /-- `TLV.LIST` -/
  | forest (nodes : Forest)
  /-- `TLV.FIND` -/
  | found (node : Option Node)
deriving DecidableEq, Repr

/-- The outcome of an operation the block took (R10); the third outcome, `Refused`, is the machine's `.refused`. -/
inductive OpOutcome where
  /-- `Done(r)` -/
  | done (r : Result)
  /-- `Fault(K)` -/
  | fault (kind : FaultKind)
deriving DecidableEq, Repr

/-- The state of the block. -/
structure State where
  /-- the parameters of R6; no step writes them (log entry 1) -/
  params : Config.Params
  /-- the command group -/
  cmd : CommandRegs
  /-- the response group -/
  rsp : ResponseRegs
  /-- the forest group -/
  tlv : ForestRegs
  /-- the lookup group -/
  look : LookupRegs
  /-- `ERR`; `none` is the spec's `None`, code 0 (R23) -/
  err : Option FaultKind
  /-- the framer in flight, `none` between operations (R29) -/
  framer : Option FramerWork
  /-- the decoder in flight, `none` between operations (R29) -/
  decoder : Option DecoderWork
  /-- the outcome of the last operation taken, `none` before any (log entry 4) -/
  outcome : Option OpOutcome
  /-- the host's pending requests, oldest first (log entry 3) -/
  inbox : List Request
deriving DecidableEq, Repr

/-- The machine's own stops. The block has none: "every operation ends" (93_implementation_defined.md); its fault kinds are
next states (R104). -/
inductive Fault where
  /-- Raised by the TLV decoder if its recursion counter ran out. The counter starts at the buffer's length, which R86 proves
  enough, so no step raises it (statement `NoStepFaults`). Safe: it stops, it invents no result. -/
  | decoderFuel
deriving DecidableEq, Repr

/-- Why a request is not taken. All of them leave no next state, as `Refused` does (R10, R107). -/
inductive Refusal where
  /-- `exec`'s arm of an instruction without a meaning; no arm uses it now. Safe. -/
  | notModelled (mnemonic : String)
  /-- `step`: the bytes of the pending request are no request or form of the spec. Safe. -/
  | undecodable (why : Reject)
  /-- `RSP.OKAY`, `RSP.AVAIL` with `RV = 0` (R107 (a)). Safe. -/
  | noResponse
  /-- `TLV.FIND` with `FV = 0` (R107 (b)). Safe. -/
  | noForest
  /-- a host read of a register whose valid bit is 0 (R107 (c)). Safe. -/
  | noValue
  /-- a payload longer than `PAYLOAD_MAX` (R107 (d)). Safe. -/
  | payloadTooLong
  /-- a reply longer than `RBUF_MAX` (R107 (d)). Safe. -/
  | replyTooLong
  /-- a buffer longer than `IBUF_MAX` (R107 (d)). Safe. -/
  | bufferTooLong
  /-- a decoding of more than `NODE_MAX` nodes (R107 (d)). Safe. -/
  | tooManyNodes
  /-- a wire form whose bytes are not that form, for example `TAG1` with the low five bits all set. Safe. -/
  | notThisForm
  /-- a tag, length or filler form that is not what stands at the cursor of the decoding in flight. Safe. -/
  | notAtCursor
  /-- `hostReset` while lone forms have left a build or a decoding in flight (R111, U11 of 93_implementation_defined.md: such a
  reset gets no move). Safe. -/
  | operationInFlight
deriving DecidableEq, Repr

/-- The state after reset (R29, R111): all valid bits 0, `ERR` = `None`, nothing in flight, the parameters at the defaults of
R6. A register the spec says holds no value holds a plain 0, `[]` or empty node that its valid bit guards (log entry 2). -/
def State.reset : State :=
  { params := Config.defaults
    cmd := { cv := false, fmode := false, cla := 0, ins := 0, p1 := 0, p2 := 0, plen := 0, pbuf := [], pktn := 0, pktq := [] }
    rsp := { rv := false, data := [], dlen := 0, sw1 := 0, sw2 := 0 }
    tlv := { fv := false, forest := .nil, rem := [] }
    look := { keyed := false, key := 0, hit := false, found := { tag := 0, length := 0, value := [], subs := .nil } }
    err := none
    framer := none
    decoder := none
    outcome := none
    inbox := [] }

end Sys2Proof.Machine
end

