-- ==== Sys2Proof/Machine/Ops.lean ====
section
/-! DEFINITION. The named operations over byte sequences, nodes and registers, and the two ways an operation ends: `Done`
(`finish`) and `Fault` (`raise`, the one shared fault entry of R104). There is no return from a fault: "There is nothing to
return from. After a fault the block is ready for any operation at once" (R105). -/

namespace Sys2Proof.Machine

/-- What ends a decoding early: a fault kind of the spec, or the model's own recursion counter. -/
inductive Stop where
  /-- `raise K` (R9) -/
  | raise (kind : FaultKind)
  /-- the recursion counter ran out; never happens (R86) -/
  | fuel
deriving DecidableEq, Repr

/-- `MemRead(s, i, n)`: the bytes `s[i..i+n)`, or `Truncated` when they would pass the end (R9, R36). -/
def memRead (buf : Bytes) (i n : Nat) : Except Stop Bytes :=
  if i + n ≤ buf.length then .ok ((buf.drop i).take n) else .error (.raise .truncated)

/-- `MemRead(s, i, 1)` as a byte value (R9). -/
def readByte (buf : Bytes) (i : Nat) : Except Stop Byte :=
  match buf[i]? with
  | some b => .ok b
  | none => .error (.raise .truncated)

/-- The slice `s[a..b)` (R8). -/
def slice (s : Bytes) (a b : Nat) : Bytes := (s.drop a).take (b - a)

/-- A node in front of a forest. -/
def Node.before (n : Node) (rest : Forest) : Forest := .cons n.tag n.length n.value n.subs rest

/-- The forest of one node (R21: `FOREST <- [node]`). -/
def Node.alone (n : Node) : Forest := n.before .nil

/-- The forest as the list of its nodes (R19, R21). -/
def Forest.toList : Forest → List Node
  | .nil => []
  | .cons t l v subs rest => ⟨t, l, v, subs⟩ :: rest.toList

/-- The number of nodes of a forest, at every depth (R6, `NODE_MAX`). -/
def Forest.count : Forest → Nat
  | .nil => 0
  | .cons _ _ _ subs rest => 1 + subs.count + rest.count

/-- The number of levels of a forest: 0 for the empty one (R86, R88: nodes at depths 0 to levels - 1). -/
def Forest.levels : Forest → Nat
  | .nil => 0
  | .cons _ _ _ subs rest => max (1 + subs.levels) rest.levels

/-- The nodes in pre-order: a node, its whole subtree, then the next sibling (R90, R91). -/
def Forest.preorder : Forest → List Node
  | .nil => []
  | .cons t l v subs rest => ⟨t, l, v, subs⟩ :: (subs.preorder ++ rest.preorder)

/-- Over a capacity parameter of R6; `none` is unbounded. -/
def exceeds (n : Nat) (bound : Option Nat) : Bool :=
  match bound with
  | some b => decide (b < n)
  | none => false

/-- The operation ends `Done(r)`: the result goes to the host (R10) and nothing is left in flight (R25), not even
what lone forms had left (log entry 15). -/
def finish (r : Result) (s : State) : State :=
  { s with framer := none, decoder := none, outcome := some (.done r) }

/-- FAULT ENTRY (R104), the one place a fault is taken: `ERR <- K`, the outcome `Fault(K)` goes to the host, the operation is
over (every level of the decoder's recursion is unwound, R9), and no other register changes. -/
def raise (kind : FaultKind) (s : State) : State :=
  { s with err := some kind, framer := none, decoder := none, outcome := some (.fault kind) }

/-- Write the command group (R24, row `FRM.BUILD`) and `ERR <- None` (R23). -/
def writeCommand (fmode : Bool) (cla ins p1 p2 : Byte) (payload : Bytes) (q : List Bytes) (s : State) : State :=
  { s with
    cmd := { cv := true, fmode := fmode, cla := cla, ins := ins, p1 := p1, p2 := p2,
             plen := BitVec.ofNat 16 payload.length, pbuf := payload, pktn := q.length, pktq := q }
    err := none }

/-- Write the response group (R24, row `RSP.PARSE`) and `ERR <- None`. -/
def writeResponse (data : Bytes) (sw1 sw2 : Byte) (s : State) : State :=
  { s with rsp := { rv := true, data := data, dlen := data.length, sw1 := sw1, sw2 := sw2 }, err := none }

/-- Write the forest group (R24, rows `TLV.ONE` and `TLV.LIST`) and `ERR <- None`. -/
def writeForest (forest : Forest) (remainder : Bytes) (s : State) : State :=
  { s with tlv := { fv := true, forest := forest, rem := remainder }, err := none }

/-- Write the lookup group (R91): `KEY` always, `HIT` always, `FOUND` only when a node was found; `ERR` is not written. -/
def writeLookup (key : Half) (found : Option Node) (s : State) : State :=
  { s with look := { keyed := true, key := key, hit := found.isSome, found := found.getD s.look.found } }

/-- RESET, an event of the host taken only between operations (R111): the reset state; the parameters "are not state and are the
same before and after reset", and the host keeps its own requests. While an operation is in flight a reset gets no move
(R111, U11 of 93_implementation_defined.md). -/
def hostReset (s : State) : Host.Outcome State Fault Refusal :=
  if s.framer.isNone && s.decoder.isNone then .next { State.reset with params := s.params, inbox := s.inbox }
  else .refused .operationInFlight

end Sys2Proof.Machine
end

