-- ==== Sys2Proof/Machine/Operands.lean ====
section
/-! DEFINITION. The operand forms: the three steps of one TLV object (R81 tag, R82 length, R83 value) over a bounds-checked
buffer, and the moves of the cursor of a decoding in flight (R25 (b)) and of the framer in flight (R25 (a)). -/

namespace Sys2Proof.Machine

/-- The tag step (R81): the tag, the constructed flag and the cursor after the field. -/
def decodeTag (buf : Bytes) (pos : Nat) : Except Stop (Half × Bool × Nat) := do
  let b0 ← readByte buf pos
  if lowFiveSet b0 then
    let b1 ← readByte buf (pos + 1)
    if lowFiveSet b1 then .error (.raise .badTagExtension)
    else .ok (twoByteTag b0 b1, isConstructed b0, pos + 2)
  else .ok (oneByteTag b0, isConstructed b0, pos + 1)

/-- The length step (R82): the length and the cursor after the field. An illegal first byte is decided by itself, before any
look at the bytes after it. -/
def decodeLen (buf : Bytes) (pos : Nat) : Except Stop (Half × Nat) := do
  let l0 ← readByte buf pos
  if isShortLength l0 then .ok (zext16 l0, pos + 1)
  else if l0 = Config.lenOne then
    let l1 ← readByte buf (pos + 1)
    .ok (zext16 l1, pos + 2)
  else if l0 = Config.lenTwo then
    let l1 ← readByte buf (pos + 1)
    let l2 ← readByte buf (pos + 2)
    .ok (bigEndian l1 l2, pos + 3)
  else .error (.raise .badLength)

/-- The value step (R83): exactly `length` bytes, and the cursor after them. -/
def takeValue (buf : Bytes) (pos : Nat) (length : Half) : Except Stop (Bytes × Nat) := do
  let value ← memRead buf pos length.toNat
  .ok (value, pos + length.toNat)

/-- A decoding that has just been opened, with nothing read. That tag, constructed flag and length are 0 until a form reads them is the
model's choice (log entry 16). -/
def DecoderWork.opened : DecoderWork := { frames := [], tag := 0, constructed := false, length := 0 }

/-- The cursor passes `bytes` (R25 (b): it is advanced by 1 for each byte read, never beyond the end). With no decoding in flight one is
opened at depth 0 on these bytes. At the end of what the innermost level holds, the bytes are taken as arriving next. Bytes
that are not what stands at the cursor are not passed. No capacity is checked on the bytes taken so (log entry 13). -/
def DecoderWork.pass (bytes : Bytes) (d : DecoderWork) : Option DecoderWork :=
  match d.frames with
  | [] => some { d with frames := [{ slice := bytes, pos := bytes.length, kids := [] }] }
  | f :: outer =>
    let rest := f.slice.drop f.pos
    if bytes.isPrefixOf rest then
      some { d with frames := { f with pos := f.pos + bytes.length } :: outer }
    else if f.pos = f.slice.length then
      some { d with frames := { f with slice := f.slice ++ bytes, pos := f.pos + bytes.length } :: outer }
    else none

/-- One step of the decoding in flight: the cursor passes the form's bytes, then the step's result is kept. No register
changes. That `IBUF_MAX` does not bound a buffer opened or extended so is the model's choice (log entry 13),
and so is that a build in flight stays in flight beside it (log entry 17), and that no place is asked which field is due there (log
entry 18). -/
def stepDecoder (bytes : Bytes) (keep : DecoderWork → DecoderWork) (s : State) : Host.Outcome State Fault Refusal :=
  match (s.decoder.getD DecoderWork.opened).pass bytes with
  | some d => .next { s with decoder := some (keep d) }
  | none => .refused .notAtCursor

/-- One illegal form met by the decoding in flight: once the cursor has read it, the fault is raised (R61, R65, R104). -/
def stepDecoderRaise (bytes : Bytes) (kind : FaultKind) (s : State) : Host.Outcome State Fault Refusal :=
  match (s.decoder.getD DecoderWork.opened).pass bytes with
  | some _ => .next (raise kind s)
  | none => .refused .notAtCursor

/-- A build that has just begun: `k` counts from 1, no packet is finished (R25 (a), R71). -/
def FramerWork.opened : FramerWork := { k := 1, packets := [], packet := [] }

/-- One packet of the build in flight is written and appended (R9 `MemWrite`, R71 `Q <- Q ++ [p]`); `k` advances by 1 per
chaining packet (R25 (a)). No register changes. That `PAYLOAD_MAX` does not bound what lone packet forms add up to (log entry 13),
that they may follow one another in any order (log entry 14), and that a decoding in flight stays in flight beside the build (log
entry 17), are the model's choices. -/
def stepFramer (chaining : Bool) (p : Bytes) (s : State) : Host.Outcome State Fault Refusal :=
  let w := s.framer.getD FramerWork.opened
  .next { s with
    framer := some { k := if chaining then w.k + 1 else w.k, packets := w.packets ++ [p], packet := p } }

end Sys2Proof.Machine
end

