-- ==== Sys2Proof/Machine/Framer.lean ====
section
/-! DEFINITION. The framer unit FRM: `FRM.BUILD` (R71), `FRM.BUILDX` (R72) and the four packet forms it writes (R48 to R51). -/

namespace Sys2Proof.Machine

/-- The loop of R71 from chunk index `k`: while `N > 254 * k`, a chaining packet with bytes `[(k-1)*254, k*254)`; then the final
packet with bytes `[(k-1)*254, N)`. `turns` bounds the turns left; `N` turns are always enough (R74). -/
def chainFrom (cla ins p1 p2 : Byte) (payload : Bytes) : Nat → Nat → List Bytes
  | 0, k => [shortPacket cla ins p1 p2 (slice payload ((k - 1) * Config.chunk) payload.length)]
  | turns + 1, k =>
    if payload.length > Config.chunk * k then
      chainPacket ins p1 p2 (slice payload ((k - 1) * Config.chunk) (k * Config.chunk))
        :: chainFrom cla ins p1 p2 payload turns (k + 1)
    else [shortPacket cla ins p1 p2 (slice payload ((k - 1) * Config.chunk) payload.length)]

/-- `Frame(0, ..)` of R71: the chained build. -/
def frameChained (cla ins p1 p2 : Byte) (payload : Bytes) : List Bytes :=
  chainFrom cla ins p1 p2 payload payload.length 1

/-- `Frame(1, ..)` of R72: one packet, a one-byte length up to 255, else the marker and two bytes. -/
def frameExtended (cla ins p1 p2 : Byte) (payload : Bytes) : List Bytes :=
  if payload.length ≤ Config.ext1Max then [shortPacket cla ins p1 p2 payload]
  else [longPacket cla ins p1 p2 payload]

/-- `Frame(FMODE, ..)` of R16. -/
def frame (fmode : Bool) (cla ins p1 p2 : Byte) (payload : Bytes) : List Bytes :=
  if fmode then frameExtended cla ins p1 p2 payload else frameChained cla ins p1 p2 payload

/-- Either build operation: refused over `PAYLOAD_MAX` (R107 (d)), else the command group is written and the packet list
handed over (R71, R72). There is no failure path (R110). -/
def build (fmode : Bool) (cla ins p1 p2 : Byte) (payload : Bytes) (s : State) : Host.Outcome State Fault Refusal :=
  if payload.length ≤ Config.payloadMax then
    let q := frame fmode cla ins p1 p2 payload
    .next (finish (.packets q) (writeCommand fmode cla ins p1 p2 payload q s))
  else .refused .payloadTooLong

/-- `FRM.BUILD` (R71). -/
def execFrmBuild (cla ins p1 p2 : Byte) (payload : Bytes) (s : State) : Host.Outcome State Fault Refusal :=
  build false cla ins p1 p2 payload s

/-- `FRM.BUILDX` (R72). -/
def execFrmBuildx (cla ins p1 p2 : Byte) (payload : Bytes) (s : State) : Host.Outcome State Fault Refusal :=
  build true cla ins p1 p2 payload s

/-- `PKT.FINAL` (R48): the build in flight writes its last packet. -/
def execPktFinal (cla ins p1 p2 : Byte) (payload : Bytes) (s : State) : Host.Outcome State Fault Refusal :=
  if fitsFinal payload then stepFramer false (shortPacket cla ins p1 p2 payload) s else .refused .notThisForm

/-- `PKT.CHAIN` (R49): the build in flight writes a non-final packet and `k` advances (R25). -/
def execPktChain (ins p1 p2 : Byte) (payload : Bytes) (s : State) : Host.Outcome State Fault Refusal :=
  if fitsChain payload then stepFramer true (chainPacket ins p1 p2 payload) s else .refused .notThisForm

/-- `PKT.EXT1` (R50): the extended build in flight writes its one packet. -/
def execPktExt1 (cla ins p1 p2 : Byte) (payload : Bytes) (s : State) : Host.Outcome State Fault Refusal :=
  if fitsExt1 payload then stepFramer false (shortPacket cla ins p1 p2 payload) s else .refused .notThisForm

/-- `PKT.EXT3` (R51): the extended build in flight writes its one packet. -/
def execPktExt3 (cla ins p1 p2 : Byte) (payload : Bytes) (s : State) : Host.Outcome State Fault Refusal :=
  if fitsExt3 payload then stepFramer false (longPacket cla ins p1 p2 payload) s else .refused .notThisForm

end Sys2Proof.Machine
end

