-- ==== Sys2Proof/Machine/Flags.lean ====
section
/-! DEFINITION. Every flag the spec gives: `OKAY`, `MORE`, `AVAIL` as pure functions of `SW1` and `SW2` with no storage of their
own (R18, R56), the codes of `ERR` (R23), and what `RSP.AVAIL` answers (R79). -/

namespace Sys2Proof.Machine

/-- `OKAY` (R18). -/
def okayFlag (r : ResponseRegs) : Bool := isOkPair r.sw1 r.sw2

/-- `MORE` (R18). -/
def moreFlag (r : ResponseRegs) : Bool := isMorePair r.sw1

/-- `AVAIL` (R18), meaningful only while `MORE` is 1. -/
def availCount (r : ResponseRegs) : Byte := r.sw2

/-- `available_to_read` (R79): `Some(SW2)` when `SW1` is 0x61, else `None`. -/
def availAnswer (r : ResponseRegs) : Option Byte := if moreFlag r then some (availCount r) else none

/-- The 3-bit code of `ERR` (R23). -/
def errCode (e : Option FaultKind) : BitVec 3 :=
  match e with
  | none => 0
  | some .tooShortReply => 1
  | some .badTagExtension => 2
  | some .badLength => 3
  | some .truncated => 4
  | some .depthExceeded => 5

end Sys2Proof.Machine
end

