-- ==== Sys2Proof/Machine/Response.lean ====
section
/-! DEFINITION. The reply splitter unit RSP: `RSP.PARSE` (R77), `RSP.OKAY` (R78), `RSP.AVAIL` (R79), and the reply and status
forms (R55, R56). A reply reaches the block through `RSP.PARSE` only (R97), so a reply form is that operation on that reply, and
a status pair is the reply of two bytes, `DATA = []` (R55, R77 corner case (a)) (log entry 5). -/

namespace Sys2Proof.Machine

/-- The parse of a raw reply (R77): refused over `RBUF_MAX` (R107 (d)), `TooShortReply` below two bytes (R98), else split. -/
def parse (raw : Bytes) (s : State) : Host.Outcome State Fault Refusal :=
  if exceeds raw.length s.params.rbufMax then .refused .replyTooLong
  else
    match splitReply raw with
    | none => .next (raise .tooShortReply s)
    | some (data, sw1, sw2) => .next (finish (.response data sw1 sw2) (writeResponse data sw1 sw2 s))

/-- `RSP.PARSE` (R77). -/
def execRspParse (raw : Bytes) (s : State) : Host.Outcome State Fault Refusal := parse raw s

/-- `RSP.OKAY` (R78): needs `RV = 1`; writes no register. -/
def execRspOkay (s : State) : Host.Outcome State Fault Refusal :=
  if s.rsp.rv then .next (finish (.okay (okayFlag s.rsp)) s) else .refused .noResponse

/-- `RSP.AVAIL` (R79): needs `RV = 1`; writes no register. -/
def execRspAvail (s : State) : Host.Outcome State Fault Refusal :=
  if s.rsp.rv then .next (finish (.avail (availAnswer s.rsp)) s) else .refused .noResponse

/-- `RPL` (R55): the reply `data ‖ [sw1, sw2]` is parsed. -/
def execRpl (data : Bytes) (sw1 sw2 : Byte) (s : State) : Host.Outcome State Fault Refusal :=
  parse (data ++ [sw1, sw2]) s

/-- `SW.OK` (R56): the reply that is the pair (0x90, 0x00) alone; then `OKAY` = 1. -/
def execSwOk (s : State) : Host.Outcome State Fault Refusal := parse [Config.swOk1, Config.swOk2] s

/-- `SW.MORE` (R56): the reply that is the pair (0x61, n) alone; then `MORE` = 1 and `AVAIL` = n. -/
def execSwMore (n : Byte) (s : State) : Host.Outcome State Fault Refusal := parse [Config.sw1More, n] s

/-- `SW.OTHER` (R56): the reply that is any other pair alone, passed to the host unclassified. -/
def execSwOther (sw1 sw2 : Byte) (s : State) : Host.Outcome State Fault Refusal :=
  if isOkPair sw1 sw2 || isMorePair sw1 then .refused .notThisForm else parse [sw1, sw2] s

end Sys2Proof.Machine
end

