-- ==== Sys2Proof/Machine/TlvDecode.lean ====
section
/-! DEFINITION. The TLV decoder: `TLV.ONE` (R84) and `TLV.LIST` (R85), with the depth bound of R88 and the parameter `TAIL` of
conflict C1, by natural recursion over the value bytes (R26, R86). -/

namespace Sys2Proof.Machine

/-- The children of a constructed object would stand at depth `depth + 1`, beyond `DEPTH_MAX` (R88). -/
def tooDeep (p : Config.Params) (depth : Nat) : Bool := exceeds (depth + 1) p.depthMax

/-- `DecodeOne(buf, rec, depth)` of R84, with the forest decoder for the children given: the node and the remainder. -/
def decodeOneWith (children : Bytes → Except Stop Forest) (p : Config.Params) (recursive : Bool) (depth : Nat) (buf : Bytes) :
    Except Stop (Node × Bytes) := do
  let (tag, constructed, p1) ← decodeTag buf 0
  let (length, p2) ← decodeLen buf p1
  let (value, p3) ← takeValue buf p2 length
  if constructed && recursive then
    if tooDeep p depth then .error (.raise .depthExceeded)
    else
      let subs ← children value
      .ok (⟨tag, length, value, subs⟩, match p.tail with | .drop => [] | .keep => buf.drop p3)
  else .ok (⟨tag, length, value, .nil⟩, buf.drop p3)

/-- `DecodeList(buf, rec, depth)` of R85. The first argument bounds the recursion: every call is on a shorter buffer (R86), so
the buffer's length is always enough. -/
def decodeListWithin (p : Config.Params) (recursive : Bool) : Nat → Nat → Bytes → Except Stop Forest
  | 0, _, buf => if buf = [] then .ok .nil else .error .fuel
  | turns + 1, depth, buf =>
    match buf with
    | [] => .ok .nil
    | b :: rest =>
      if isFiller b then decodeListWithin p recursive turns depth rest
      else
        match decodeOneWith (decodeListWithin p recursive turns (depth + 1)) p recursive depth (b :: rest) with
        | .error e => .error e
        | .ok (node, remainder) =>
          match decodeListWithin p recursive turns depth remainder with
          | .error e => .error e
          | .ok nodes => .ok (node.before nodes)

/-- `DecodeList(buf, rec, depth)` of R85. -/
def decodeList (p : Config.Params) (recursive : Bool) (depth : Nat) (buf : Bytes) : Except Stop Forest :=
  decodeListWithin p recursive buf.length depth buf

/-- `DecodeOne(buf, rec, depth)` of R84. -/
def decodeOne (p : Config.Params) (recursive : Bool) (depth : Nat) (buf : Bytes) : Except Stop (Node × Bytes) :=
  decodeOneWith (decodeList p recursive (depth + 1)) p recursive depth buf

/-- How either decoding operation ends: a fault is taken (R104), a result over `NODE_MAX` is refused (R107 (d)), else the
forest group is written and the result handed over (R84, R85). -/
def endDecoding (s : State) (decoded : Except Stop (Forest × Bytes × Result)) : Host.Outcome State Fault Refusal :=
  match decoded with
  | .error (.raise kind) => .next (raise kind s)
  | .error .fuel => .fault .decoderFuel
  | .ok (forest, remainder, result) =>
    if exceeds forest.count s.params.nodeMax then .refused .tooManyNodes
    else .next (finish result (writeForest forest remainder s))

/-- `TLV.ONE` (R84): refused over `IBUF_MAX`; no filler is skipped. -/
def execTlvOne (buf : Bytes) (recursive : Bool) (s : State) : Host.Outcome State Fault Refusal :=
  if exceeds buf.length s.params.ibufMax then .refused .bufferTooLong
  else endDecoding s ((decodeOne s.params recursive 0 buf).map
    fun (node, remainder) => (node.alone, remainder, Result.one node remainder))

/-- `TLV.LIST` (R85): refused over `IBUF_MAX`; `REM <- []`. -/
def execTlvList (buf : Bytes) (recursive : Bool) (s : State) : Host.Outcome State Fault Refusal :=
  if exceeds buf.length s.params.ibufMax then .refused .bufferTooLong
  else endDecoding s ((decodeList s.params recursive 0 buf).map
    fun nodes => (nodes, [], Result.forest nodes))

end Sys2Proof.Machine
end

