-- ==== Sys2Proof/Machine/TlvFind.lean ====
section
/-! DEFINITION. The TLV tree lookup `TLV.FIND` (R90, R91). -/

namespace Sys2Proof.Machine

/-- The search of R91 over the roots in order, each node before its children and its whole subtree before the next sibling
(R90). Equality of the two 16-bit values is all that is looked at. -/
def findIn (key : Half) : Forest → Option Node
  | .nil => none
  | .cons tag length value subs rest =>
    if tag = key then some ⟨tag, length, value, subs⟩
    else
      match findIn key subs with
      | some n => some n
      | none => findIn key rest

/-- `FindNode(n, key)` of R90: the node itself first, then its children. -/
def findNode (n : Node) (key : Half) : Option Node :=
  if n.tag = key then some n else findIn key n.subs

/-- `TLV.FIND` (R91): needs `FV = 1`; writes `KEY`, `HIT`, and `FOUND` when found; not finding is a result, no fault. -/
def execTlvFind (key : Half) (s : State) : Host.Outcome State Fault Refusal :=
  if s.tlv.fv then
    let r := findIn key s.tlv.forest
    .next (finish (.found r) (writeLookup key r s))
  else .refused .noForest

end Sys2Proof.Machine
end

