-- ==== Sys2Proof/Machine/TlvForms.lean ====
section
/-! DEFINITION. The tag, length and filler forms as the steps of a decoding in flight (R81, R82, R66): the cursor passes the
field, the fields read are kept in the decoder's hidden state, and an illegal form raises its fault. No register but `ERR` can
change (R24, R104) (log entry 5). -/

namespace Sys2Proof.Machine

/-- `TAG1` (R59, R81). That it is a tag field at any cursor, the byte 0x00 too, is the model's choice (log entry 18). -/
def execTag1 (b0 : Byte) (s : State) : Host.Outcome State Fault Refusal :=
  if lowFiveSet b0 then .refused .notThisForm
  else stepDecoder [b0] (fun d => { d with tag := oneByteTag b0, constructed := isConstructed b0 }) s

/-- `TAG2` (R60, R81). That it is a tag field at any cursor, a first byte 0xFF too, is the model's choice (log entry 18). -/
def execTag2 (b0 b1 : Byte) (s : State) : Host.Outcome State Fault Refusal :=
  if lowFiveSet b0 && !lowFiveSet b1 then
    stepDecoder [b0, b1] (fun d => { d with tag := twoByteTag b0 b1, constructed := isConstructed b0 }) s
  else .refused .notThisForm

/-- `TAG.BAD` (R61, R99): raises `BadTagExtension`. That it does so at any cursor is the model's choice (log
entry 18). -/
def execTagBad (b0 b1 : Byte) (s : State) : Host.Outcome State Fault Refusal :=
  if lowFiveSet b0 && lowFiveSet b1 then stepDecoderRaise [b0, b1] .badTagExtension s
  else .refused .notThisForm

/-- `LEN.SHORT` (R62, R82). -/
def execLenShort (l0 : Byte) (s : State) : Host.Outcome State Fault Refusal :=
  if isShortLength l0 then stepDecoder [l0] (fun d => { d with length := zext16 l0 }) s
  else .refused .notThisForm

/-- `LEN.ONE` (R63, R82). -/
def execLenOne (l1 : Byte) (s : State) : Host.Outcome State Fault Refusal :=
  stepDecoder [Config.lenOne, l1] (fun d => { d with length := zext16 l1 }) s

/-- `LEN.TWO` (R64, R82). -/
def execLenTwo (l1 l2 : Byte) (s : State) : Host.Outcome State Fault Refusal :=
  stepDecoder [Config.lenTwo, l1, l2] (fun d => { d with length := bigEndian l1 l2 }) s

/-- `LEN.BAD` (R65, R100): raises `BadLength`; no further byte is read. That it does so at any cursor is the model's choice
(log entry 18). -/
def execLenBad (l0 : Byte) (s : State) : Host.Outcome State Fault Refusal :=
  if isBadLength l0 then stepDecoderRaise [l0] .badLength s else .refused .notThisForm

/-- `FILL.00` (R66): skipped. R66 has filler where an object may start; that a lone form is filler at any cursor, also where a length
byte is due, is the model's choice (log entry 18). -/
def execFill00 (s : State) : Host.Outcome State Fault Refusal := stepDecoder [Config.fill0] id s

/-- `FILL.FF` (R66): skipped. That it is filler at any cursor is the model's choice, as for `FILL.00` (log entry 18). -/
def execFillFF (s : State) : Host.Outcome State Fault Refusal := stepDecoder [Config.fillF] id s

end Sys2Proof.Machine
end

