-- ==== Sys2Proof/Machine/Dispatch.lean ====
section
/-! DEFINITION. The dispatch: one arm per row of spec/opcode_table.json, each a direct call of that row's meaning. -/

namespace Sys2Proof.Machine

def exec (i : Instr) (s : State) : Host.Outcome State Fault Refusal :=
  match i with
  | .frmBuild cla ins p1 p2 payload => Sys2Proof.Machine.execFrmBuild cla ins p1 p2 payload s
  | .frmBuildx cla ins p1 p2 payload => Sys2Proof.Machine.execFrmBuildx cla ins p1 p2 payload s
  | .rspParse raw => Sys2Proof.Machine.execRspParse raw s
  | .rspOkay => Sys2Proof.Machine.execRspOkay s
  | .rspAvail => Sys2Proof.Machine.execRspAvail s
  | .tlvOne buf recursive => Sys2Proof.Machine.execTlvOne buf recursive s
  | .tlvList buf recursive => Sys2Proof.Machine.execTlvList buf recursive s
  | .tlvFind key => Sys2Proof.Machine.execTlvFind key s
  | .pktFinal cla ins p1 p2 payload => Sys2Proof.Machine.execPktFinal cla ins p1 p2 payload s
  | .pktChain ins p1 p2 payload => Sys2Proof.Machine.execPktChain ins p1 p2 payload s
  | .pktExt1 cla ins p1 p2 payload => Sys2Proof.Machine.execPktExt1 cla ins p1 p2 payload s
  | .pktExt3 cla ins p1 p2 payload => Sys2Proof.Machine.execPktExt3 cla ins p1 p2 payload s
  | .rpl data sw1 sw2 => Sys2Proof.Machine.execRpl data sw1 sw2 s
  | .swOk => Sys2Proof.Machine.execSwOk s
  | .swMore n => Sys2Proof.Machine.execSwMore n s
  | .swOther sw1 sw2 => Sys2Proof.Machine.execSwOther sw1 sw2 s
  | .tag1 b0 => Sys2Proof.Machine.execTag1 b0 s
  | .tag2 b0 b1 => Sys2Proof.Machine.execTag2 b0 b1 s
  | .tagBad b0 b1 => Sys2Proof.Machine.execTagBad b0 b1 s
  | .lenShort l0 => Sys2Proof.Machine.execLenShort l0 s
  | .lenOne l1 => Sys2Proof.Machine.execLenOne l1 s
  | .lenTwo l1 l2 => Sys2Proof.Machine.execLenTwo l1 l2 s
  | .lenBad l0 => Sys2Proof.Machine.execLenBad l0 s
  | .fill00 => Sys2Proof.Machine.execFill00 s
  | .fillFF => Sys2Proof.Machine.execFillFF s

end Sys2Proof.Machine
end

