-- ==== Sys2Proof/Machine/Step.lean ====
section
/-! DEFINITION. One step: the host's oldest pending request is decoded and run (R12: one operation, one atomic step); with no
request pending the block does nothing (R25: "the host chooses each operation"). -/

namespace Sys2Proof.Machine

/-- One step of the machine. -/
def step (s : State) : Host.Outcome State Fault Refusal :=
  match s.inbox with
  | [] => .next s
  | r :: rest =>
    match Sys2Proof.decode r with
    | .ok i => exec i { s with inbox := rest }
    | .error why => .refused (.undecodable why)

/-- The state with a table row's instruction placed as the next request. -/
def State.withFetchWord (s : State) (nbits w : Nat) : State :=
  { s with inbox := Sys2Proof.tableRequest nbits w :: s.inbox }

end Sys2Proof.Machine
end

