-- ==== Sys2Proof/Machine/HostRead.lean ====
section
/-! DEFINITION. What the host may read (R13 to R23, R97) and when a read is refused (R28, R107 (c)). A read changes nothing (R38). -/

namespace Sys2Proof.Machine

/-- The registers and flags the host can read, by the spec's names. -/
inductive Reg where
  /-- valid bits and the status register: always readable -/
  | CV | RV | FV | HIT | ERR
  /-- the command group, guarded by `CV` -/
  | CLA | INS | P1 | P2 | PLEN | PBUF | FMODE | PKTN | PKTQ
  /-- the response group and its flags, guarded by `RV` -/
  | DATA | DLEN | SW1 | SW2 | OKAY | MORE | AVAIL
  /-- the forest group, guarded by `FV` -/
  | FOREST | REM
  /-- guarded by "no `TLV.FIND` has run" -/
  | KEY
  /-- guarded by `HIT` -/
  | FOUND
deriving DecidableEq, Repr

/-- A value read. -/
inductive RegValue where
  /-- one bit -/
  | bit (b : Bool)
  /-- the three bits of `ERR` -/
  | code (c : BitVec 3)
  /-- eight bits -/
  | byte (b : Byte)
  /-- sixteen bits -/
  | half (h : Half)
  /-- a count -/
  | count (n : Nat)
  /-- a byte sequence -/
  | bytes (s : Bytes)
  /-- the packet list -/
  | packets (q : List Bytes)
  /-- a forest -/
  | forest (f : Forest)
  /-- a node -/
  | node (n : Node)
deriving DecidableEq, Repr

/-- Whether the register holds a value: the valid bit of its group (R28, R29). -/
def holdsValue (s : State) : Reg → Bool
  | .CV | .RV | .FV | .HIT | .ERR => true
  | .CLA | .INS | .P1 | .P2 | .PLEN | .PBUF | .FMODE | .PKTN | .PKTQ => s.cmd.cv
  | .DATA | .DLEN | .SW1 | .SW2 | .OKAY | .MORE | .AVAIL => s.rsp.rv
  | .FOREST | .REM => s.tlv.fv
  | .KEY => s.look.keyed
  | .FOUND => s.look.hit

/-- What the register holds. -/
def regValue (s : State) : Reg → RegValue
  | .CV => .bit s.cmd.cv
  | .RV => .bit s.rsp.rv
  | .FV => .bit s.tlv.fv
  | .HIT => .bit s.look.hit
  | .ERR => .code (errCode s.err)
  | .CLA => .byte s.cmd.cla
  | .INS => .byte s.cmd.ins
  | .P1 => .byte s.cmd.p1
  | .P2 => .byte s.cmd.p2
  | .PLEN => .half s.cmd.plen
  | .PBUF => .bytes s.cmd.pbuf
  | .FMODE => .bit s.cmd.fmode
  | .PKTN => .count s.cmd.pktn
  | .PKTQ => .packets s.cmd.pktq
  | .DATA => .bytes s.rsp.data
  | .DLEN => .count s.rsp.dlen
  | .SW1 => .byte s.rsp.sw1
  | .SW2 => .byte s.rsp.sw2
  | .OKAY => .bit (okayFlag s.rsp)
  | .MORE => .bit (moreFlag s.rsp)
  | .AVAIL => .byte (availCount s.rsp)
  | .FOREST => .forest s.tlv.forest
  | .REM => .bytes s.tlv.rem
  | .KEY => .half s.look.key
  | .FOUND => .node s.look.found

/-- A host read of a register (R28). -/
def hostRead (s : State) (r : Reg) : Except Refusal RegValue :=
  if holdsValue s r then .ok (regValue s r) else .error .noValue

end Sys2Proof.Machine
end

