-- ==== Sys2Proof/Machine/HostXfer.lean ====
section
/-! DEFINITION. The host's pseudo-operation `XFER` (R93): build, hand the packets in order to the transport, parse the last reply.
It is no operation of the block: it is what the host owes the block and the card (R94 to R96). The transport is the list of its
answers, one per packet in order; `none`, or no answer left, is a transport failure. -/

namespace Sys2Proof.Machine

/-- The packets that go out, in order, until the first failure (R94, R96): the packet whose exchange fails is the last sent. -/
def packetsSent : List Bytes → List (Option Bytes) → List Bytes
  | [], _ => []
  | p :: _, [] => [p]
  | p :: _, none :: _ => [p]
  | p :: ps, some _ :: answers => p :: packetsSent ps answers

/-- The reply to the last packet, the others dropped unread (R95); `none` if an exchange failed (R96). -/
def lastReply : List Bytes → List (Option Bytes) → Option Bytes
  | [], _ => none
  | _, [] => none
  | _, none :: _ => none
  | [_], some reply :: _ => some reply
  | _ :: p :: ps, some _ :: answers => lastReply (p :: ps) answers

/-- `XFER cmd` (R93); `extended` is the host's choice of `FRM.BUILDX`. -/
def hostXfer (extended : Bool) (cla ins p1 p2 : Byte) (payload : Bytes) (answers : List (Option Bytes)) (s : State) :
    Host.Outcome State Fault Refusal :=
  match exec (if extended then .frmBuildx cla ins p1 p2 payload else .frmBuild cla ins p1 p2 payload) s with
  | .next t =>
    match lastReply t.cmd.pktq answers with
    | some reply => exec (.rspParse reply) t
    | none => .next t
  | stopped => stopped

end Sys2Proof.Machine
end

