-- ==== Sys2Proof/Safety.lean ====
section
/-! DEFINITION. What counts as a good state (the invariants the spec states over its registers: R14, R16, R17, R20, R22, R25), and
the words the statements use: forms run in order, which operations are which. -/

namespace Sys2Proof.Safety

open Sys2Proof.Machine

/-- The invariants of every node of a forest (R19, R20 (a) (b), R67 (d)): the value is as long as its length says, the tag is one a
decoder can produce, and only a constructed node has children. -/
def wfForest : Forest → Bool
  | .nil => true
  | .cons tag length value subs rest =>
    decide (value.length = length.toNat) && tagProducible tag && (decide (subs = .nil) || tagConstructed tag)
      && wfForest subs && wfForest rest

/-- The command group (R14, R16): while `CV`, the packet list is the framing of the command. -/
def CommandInv (r : CommandRegs) : Prop :=
  r.cv = true →
    r.pbuf.length ≤ Config.payloadMax ∧ r.plen.toNat = r.pbuf.length ∧ r.pktn = r.pktq.length ∧
    r.pktq = frame r.fmode r.cla r.ins r.p1 r.p2 r.pbuf

/-- The response group (R17): while `RV`, `DLEN = |DATA|`. -/
def ResponseInv (r : ResponseRegs) : Prop := r.rv = true → r.dlen = r.data.length

/-- The forest group (R20): while `FV`, every node keeps its invariants. -/
def ForestInv (r : ForestRegs) : Prop := r.fv = true → wfForest r.forest = true

/-- The lookup group (R22): while `HIT`, a lookup has run, and `FOUND` is a good node that carries the tag `KEY`. -/
def LookupInv (r : LookupRegs) : Prop :=
  r.hit = true → r.keyed = true ∧ r.found.tag = r.key ∧ wfForest r.found.alone = true

/-- The hidden cursors (R25): `k` counts from 1, and no `pos` is beyond the end of its slice. -/
def WorkInv (s : State) : Prop :=
  (∀ w, s.framer = some w → 1 ≤ w.k) ∧ (∀ d, s.decoder = some d → ∀ f ∈ d.frames, f.pos ≤ f.slice.length)

/-- The invariant of the machine. -/
def GoodState (s : State) : Prop :=
  CommandInv s.cmd ∧ ResponseInv s.rsp ∧ ForestInv s.tlv ∧ LookupInv s.look ∧ WorkInv s

/-- Under `TAIL = DROP` a constructed node is the last of its siblings, at every level (R118). -/
def constructedLast : Forest → Bool
  | .nil => true
  | .cons tag _ _ subs rest =>
    (!tagConstructed tag || decide (rest = .nil)) && constructedLast subs && constructedLast rest

/-- No node has children (R85 corner case (e)). -/
def flat : Forest → Bool
  | .nil => true
  | .cons _ _ _ subs rest => decide (subs = .nil) && flat rest

/-- The tag field that carries a tag value (R59, R60). -/
def tagField (tag : Half) : Bytes :=
  if tag.toNat ≤ 0x00FF then [lowByte tag.toNat] else [highByte tag.toNat, lowByte tag.toNat]

/-- The shortest length field that carries a length (R62 to R64). -/
def lengthField (length : Half) : Bytes :=
  if length.toNat < 0x80 then [lowByte length.toNat]
  else if length.toNat ≤ 0x00FF then [Config.lenOne, lowByte length.toNat]
  else [Config.lenTwo, highByte length.toNat, lowByte length.toNat]

/-- A forest written out: each object's tag field, length field and value, one object after the other (R57). -/
def wireBytes : Forest → Bytes
  | .nil => []
  | .cons tag length value _ rest => tagField tag ++ lengthField length ++ value ++ wireBytes rest

/-- A tree of objects as they can stand on the wire of a forest decoder: good tags that do not open with a filler byte (R66, R67), values
of their length, a constructed object's value its children written out, a primitive object without children (R20). -/
def isWireTree : Forest → Bool
  | .nil => true
  | .cons tag length value subs rest =>
    tagProducible tag && !(tagField tag).head?.any isFiller && decide (value.length = length.toNat)
      && (if tagConstructed tag then decide (value = wireBytes subs) else decide (subs = .nil))
      && isWireTree subs && isWireTree rest

/-- Where a decoding can meet these bytes next: none in flight, or nothing of a level open yet, or they stand at the cursor of the
innermost level, or that level holds nothing from its cursor on (R25 (b)). -/
def AtCursor (s : State) (bytes : Bytes) : Prop :=
  ∀ d f outer, s.decoder = some d → d.frames = f :: outer →
    f.pos = f.slice.length ∨ ∃ after, f.slice.drop f.pos = bytes ++ after

/-- Instructions run one after the other, while each answers a next state. -/
def execAll : List Instr → State → Host.Outcome State Fault Refusal
  | [], s => .next s
  | i :: more, s =>
    match exec i s with
    | .next t => execAll more t
    | stopped => stopped

/-- The number of chaining packets of a payload of N bytes: 0 for N = 0, else floor((N - 1) / 254) (R73). -/
def chainingCount (n : Nat) : Nat := (n - 1) / 254

/-- The packet forms of a chained build in order: `PKT.CHAIN` for each full block, then `PKT.FINAL` (R48, R49, R54). -/
def chainForms (cla ins p1 p2 : Byte) (payload : Bytes) : List Instr :=
  (List.range (chainingCount payload.length)).map
      (fun j => Instr.pktChain ins p1 p2 ((payload.drop (254 * j)).take 254))
    ++ [Instr.pktFinal cla ins p1 p2 (payload.drop (254 * chainingCount payload.length))]

/-- The two build operations. -/
def isBuild : Instr → Bool
  | .frmBuild .. => true
  | .frmBuildx .. => true
  | _ => false

/-- `RSP.PARSE`, and the forms that are a reply handed to it. -/
def isReply : Instr → Bool
  | .rspParse .. => true
  | .rpl .. => true
  | .swOk => true
  | .swMore .. => true
  | .swOther .. => true
  | _ => false

/-- The two decoding operations. -/
def isDecoding : Instr → Bool
  | .tlvOne .. => true
  | .tlvList .. => true
  | _ => false

/-- The three query operations. -/
def isQuery : Instr → Bool
  | .rspOkay => true
  | .rspAvail => true
  | .tlvFind .. => true
  | _ => false

/-- The four packet forms: steps of the framer in flight. -/
def isPacketForm : Instr → Bool
  | .pktFinal .. => true
  | .pktChain .. => true
  | .pktExt1 .. => true
  | .pktExt3 .. => true
  | _ => false

/-- The illegal tag and length forms, which raise. -/
def isIllegalForm : Instr → Bool
  | .tagBad .. => true
  | .lenBad .. => true
  | _ => false

/-- The legal tag, length and filler forms: steps of the decoder in flight. -/
def isFieldForm : Instr → Bool
  | .tag1 .. => true
  | .tag2 .. => true
  | .lenShort .. => true
  | .lenOne .. => true
  | .lenTwo .. => true
  | .fill00 => true
  | .fillFF => true
  | _ => false

end Sys2Proof.Safety
end

