-- ==== Sys2Proof/Certificates/Slice0/Obligations.lean ====
section
/-! DEFINITION. The statements for the provers: encodings, the machine, and then unit by unit (FRM, RSP, TLV decode, TLV.FIND, the
wire forms, the host). Each docstring names the rule of spec/ it formalises. -/

open Sys2Proof Sys2Proof.Machine Sys2Proof.Safety

/-! ## Encodings -/

/-- Words written out from the spec's formats: `OP` codes (R46), packets (R48 to R51), a reply (R55), status pairs (R56), tags (R59 to
R61), lengths (R62 to R65), filler (R66). That an OP request is the select byte and its operands is the model's choice (log
entry 3). -/
def Obligations.SampleWordsDecode : Prop :=
  decode ⟨.op, [0x00, 0x00, 0xA4, 0x04, 0x00, 0xD2, 0x76]⟩ = .ok (.frmBuild 0x00 0xA4 0x04 0x00 [0xD2, 0x76]) ∧
  decode ⟨.op, [0x02, 0xAB, 0x61, 0x02]⟩ = .ok (.rspParse [0xAB, 0x61, 0x02]) ∧
  decode ⟨.op, [0x06, 0x01, 0x73, 0x00]⟩ = .ok (.tlvList [0x73, 0x00] true) ∧
  decode ⟨.op, [0x07, 0x5F, 0x52]⟩ = .ok (.tlvFind 0x5F52) ∧
  decode ⟨.chained true, [0x00, 0xDA, 0x00, 0xC1, 0x01, 0xFE]⟩ = .ok (.pktFinal 0x00 0xDA 0x00 0xC1 [0xFE]) ∧
  decode ⟨.extended, [0x00, 0xCA, 0x00, 0x6E, 0x00]⟩ = .ok (.pktExt1 0x00 0xCA 0x00 0x6E []) ∧
  decode ⟨.reply, [0xAB, 0x61, 0x02]⟩ = .ok (.rpl [0xAB] 0x61 0x02) ∧
  decode ⟨.status, [0x90, 0x00]⟩ = .ok .swOk ∧
  decode ⟨.status, [0x90, 0x01]⟩ = .ok (.swOther 0x90 0x01) ∧
  decode ⟨.tag, [0x5F, 0xC1]⟩ = .ok (.tag2 0x5F 0xC1) ∧
  decode ⟨.tag, [0x7F, 0xBF]⟩ = .ok (.tagBad 0x7F 0xBF) ∧
  decode ⟨.len, [0x82, 0x01, 0x00]⟩ = .ok (.lenTwo 0x01 0x00) ∧
  decode ⟨.len, [0x83]⟩ = .ok (.lenBad 0x83) ∧
  decode ⟨.fill, [0xFF]⟩ = .ok .fillFF

/-- Decode and encode agree: no operand bit of any well-formed instruction is lost (R46 to R66). -/
def Obligations.DecodeOfEncodeIsIdentity : Prop :=
  ∀ i : Instr, i.wellFormed = true → decode (encode i) = .ok i

/-- The other direction: whatever the decoder accepts is the encoding of what it answers, so no two requests mean the same and
no byte is dropped. -/
def Obligations.EncodeOfDecodedIsTheRequest : Prop :=
  ∀ (r : Request) (i : Instr), decode r = .ok i → encode i = r

/-- In every space but those of OP requests and extended packets, illegal bytes are not taken for a legal form, nor legal ones for
an illegal one: what the decoder answers is in the ranges of R48, R49 and R56 to R66. In the two spaces left out the decoder
reads any payload length, and the machine refuses the lengths that R14 and R51 exclude. -/
def Obligations.DecodedFormsAreWellFormed : Prop :=
  ∀ (r : Request) (i : Instr), r.space ≠ .op → r.space ≠ .extended → decode r = .ok i → i.wellFormed = true

/-! ## The machine -/

/-- A step runs the decoded instruction: the oldest pending request is taken out and, when it decodes, the step is `exec` of what it
decodes to; bytes that are no request are refused by name; with nothing pending nothing happens (R12, R25). -/
def Obligations.StepRunsTheDecodedInstruction : Prop :=
  (∀ (s : State) (r : Request) (rest : List Request) (i : Instr),
    s.inbox = r :: rest → decode r = .ok i → step s = exec i { s with inbox := rest }) ∧
  (∀ (s : State) (r : Request) (rest : List Request) (why : Reject),
    s.inbox = r :: rest → decode r = .error why → step s = .refused (.undecodable why)) ∧
  (∀ s : State, s.inbox = [] → step s = .next s)

/-- What a reset between operations leaves (R29): all valid bits 0, `ERR` = `None`, nothing in flight, the parameters as before, and
every other register holds no value: a host read of it is refused. The reset state is such a state. -/
def Obligations.ResetLeavesNoValue : Prop :=
  (∀ s : State, s.framer = none → s.decoder = none →
    ∃ t, hostReset s = .next t ∧
      t.cmd.cv = false ∧ t.rsp.rv = false ∧ t.tlv.fv = false ∧ t.look.hit = false ∧ t.err = none ∧
      t.framer = none ∧ t.decoder = none ∧ t.params = s.params ∧
      ∀ r : Reg, r ≠ .CV → r ≠ .RV → r ≠ .FV → r ≠ .HIT → r ≠ .ERR → hostRead t r = .error .noValue) ∧
  hostReset State.reset = .next State.reset

/-- A reset gets no move while something is in flight (R111): it is refused, by name. That something can be in flight between two
steps, after a wire form run by itself, is the model's reading (log entry 5). -/
def Obligations.ResetInFlightIsRefused : Prop :=
  ∀ s : State, s.framer ≠ none ∨ s.decoder ≠ none → hostReset s = .refused .operationInFlight

/-- The invariant of the registers holds at reset. -/
def Obligations.ResetMeetsTheInvariant : Prop := GoodState State.reset

/-- Every step keeps the invariant: `PLEN`, `PKTN` and `PKTQ` agree with the command (R14, R16), `DLEN` with `DATA` (R17), every node
keeps its own invariants (R20 (a) (b), R67 (d)), `FOUND` carries `KEY` (R22), no cursor passes its buffer's end (R25). -/
def Obligations.StepKeepsTheInvariant : Prop :=
  ∀ s t : State, GoodState s → step s = .next t → GoodState t

/-- No step stops the machine: every operation ends, so the decoder's recursion counter is never used up (R86). -/
def Obligations.NoStepFaults : Prop := ∀ (s : State) (f : Fault), step s ≠ .fault f

/-- The access table (R24), over all instructions: which register group each may write; and that no instruction writes the
parameters or the host's requests. Reply and status forms are `RSP.PARSE` of that reply (log entry 5). -/
def Obligations.AccessTable : Prop :=
  ∀ (i : Instr) (s t : State), exec i s = .next t →
    t.params = s.params ∧ t.inbox = s.inbox ∧
    (isBuild i = false → t.cmd = s.cmd) ∧
    (isReply i = false → t.rsp = s.rsp) ∧
    (isDecoding i = false → t.tlv = s.tlv) ∧
    ((∀ key, i ≠ .tlvFind key) → t.look = s.look) ∧
    (isQuery i = true ∨ isFieldForm i = true ∨ isPacketForm i = true → t.err = s.err) ∧
    (isBuild i = true → t.err = none)

/-- Fault entry (R104, R23): an operation that ends hands over `Done(r)`, with `ERR` = `None` unless it is a query, which leaves `ERR`
alone, or it takes a fault, which writes `ERR` and nothing else but the outcome and the hidden state of the operation that is over.
`TooShortReply` comes from `RSP.PARSE` alone, the TLV kinds from the TLV operations and the illegal forms alone. -/
def Obligations.AFaultWritesOnlyErr : Prop :=
  ∀ (i : Instr) (s t : State), exec i s = .next t → isPacketForm i = false → isFieldForm i = false →
    (∃ r, t.outcome = some (.done r) ∧ t.err = (if isQuery i then s.err else none)) ∨
    ∃ k : FaultKind,
      t = { s with err := some k, framer := none, decoder := none, outcome := some (.fault k) } ∧
      (k = .tooShortReply → ∃ raw, i = .rspParse raw) ∧
      (k ≠ .tooShortReply → isDecoding i = true ∨ isIllegalForm i = true)

/-- The producing operations are functions of their operands (R11): from any two states with the same parameters the same request
has the same outcome and leaves the same `ERR`, and the same result registers when it ends `Done`. -/
def Obligations.ProducingOperationsIgnoreTheState : Prop :=
  ∀ (i : Instr) (s s' t : State), s.params = s'.params →
    isBuild i = true ∨ isReply i = true ∨ isDecoding i = true →
    exec i s = .next t →
    ∃ t', exec i s' = .next t' ∧ t'.outcome = t.outcome ∧ t'.err = t.err ∧
      (t.err = none →
        (isBuild i = true → t'.cmd = t.cmd) ∧ (isReply i = true → t'.rsp = t.rsp) ∧
        (isDecoding i = true → t'.tlv = t.tlv))

/-- Refusals of R107 (d), each with its own name, each before anything is written: a payload over `PAYLOAD_MAX`, a reply over
`RBUF_MAX`, a buffer over `IBUF_MAX`, a decoding of more than `NODE_MAX` nodes. -/
def Obligations.OverCapacityIsRefused : Prop :=
  ∀ s : State,
    (∀ (cla ins p1 p2 : Byte) (payload : Bytes), 65535 < payload.length →
      exec (.frmBuild cla ins p1 p2 payload) s = .refused .payloadTooLong ∧
      exec (.frmBuildx cla ins p1 p2 payload) s = .refused .payloadTooLong) ∧
    (∀ (raw : Bytes) (n : Nat), s.params.rbufMax = some n → n < raw.length →
      exec (.rspParse raw) s = .refused .replyTooLong) ∧
    (∀ (buf : Bytes) (flag : Bool) (n : Nat), s.params.ibufMax = some n → n < buf.length →
      exec (.tlvOne buf flag) s = .refused .bufferTooLong ∧
      exec (.tlvList buf flag) s = .refused .bufferTooLong) ∧
    (∀ (buf : Bytes) (flag : Bool) (n : Nat), (∀ m, s.params.ibufMax = some m → buf.length ≤ m) →
      s.params.nodeMax = some n →
      (∀ node remainder, decodeOne s.params flag 0 buf = .ok (node, remainder) → n < 1 + node.subs.count →
        exec (.tlvOne buf flag) s = .refused .tooManyNodes) ∧
      (∀ f, decodeList s.params flag 0 buf = .ok f → n < f.count →
        exec (.tlvList buf flag) s = .refused .tooManyNodes))

/-! ## The framer -/

/-- `FRM.BUILD` (R71), for every class, instruction and parameter byte and every payload of 0 to 65535 bytes: the packet list, the
command group, `ERR`, the outcome, and the frame. The chaining packets are written out by R73's count; a longer payload is
refused. -/
def Obligations.BuildWritesTheChainedPackets : Prop :=
  ∀ (cla ins p1 p2 : Byte) (payload : Bytes) (s : State),
    (payload.length ≤ 65535 →
      ∃ t, exec (.frmBuild cla ins p1 p2 payload) s = .next t ∧
        t.cmd.pktq =
          (List.range (chainingCount payload.length)).map
            (fun j => [0x10, ins, p1, p2, 0xFE] ++ (payload.drop (254 * j)).take 254) ++
          [[cla, ins, p1, p2, BitVec.ofNat 8 (payload.length - 254 * chainingCount payload.length)] ++
            payload.drop (254 * chainingCount payload.length)] ∧
        t.cmd.pktn = t.cmd.pktq.length ∧ t.cmd.cv = true ∧ t.cmd.fmode = false ∧
        t.cmd.cla = cla ∧ t.cmd.ins = ins ∧ t.cmd.p1 = p1 ∧ t.cmd.p2 = p2 ∧
        t.cmd.pbuf = payload ∧ t.cmd.plen.toNat = payload.length ∧
        t.err = none ∧ t.outcome = some (.done (.packets t.cmd.pktq)) ∧
        t.rsp = s.rsp ∧ t.tlv = s.tlv ∧ t.look = s.look ∧ t.params = s.params ∧ t.inbox = s.inbox ∧
        t.framer = none ∧ t.decoder = none) ∧
    (65535 < payload.length → exec (.frmBuild cla ins p1 p2 payload) s = .refused .payloadTooLong)

/-- `FRM.BUILDX` (R72): exactly one packet, a one-byte length up to 255 bytes, else the marker 0x00 and the length's two bytes,
big-endian; the command group, `ERR`, the outcome, and the frame; a payload over 65535 bytes is refused. -/
def Obligations.BuildxWritesOnePacket : Prop :=
  ∀ (cla ins p1 p2 : Byte) (payload : Bytes) (s : State),
    (payload.length ≤ 65535 →
      ∃ t, exec (.frmBuildx cla ins p1 p2 payload) s = .next t ∧
        (payload.length ≤ 255 →
          t.cmd.pktq = [[cla, ins, p1, p2, BitVec.ofNat 8 payload.length] ++ payload]) ∧
        (255 < payload.length →
          ∃ hi lo : Byte, hi.toNat * 256 + lo.toNat = payload.length ∧ hi ≠ 0 ∧
            t.cmd.pktq = [[cla, ins, p1, p2, 0x00, hi, lo] ++ payload]) ∧
        t.cmd.pktn = 1 ∧ t.cmd.cv = true ∧ t.cmd.fmode = true ∧
        t.cmd.cla = cla ∧ t.cmd.ins = ins ∧ t.cmd.p1 = p1 ∧ t.cmd.p2 = p2 ∧
        t.cmd.pbuf = payload ∧ t.cmd.plen.toNat = payload.length ∧
        t.err = none ∧ t.outcome = some (.done (.packets t.cmd.pktq)) ∧
        t.rsp = s.rsp ∧ t.tlv = s.tlv ∧ t.look = s.look ∧ t.params = s.params ∧ t.inbox = s.inbox ∧
        t.framer = none ∧ t.decoder = none) ∧
    (65535 < payload.length → exec (.frmBuildx cla ins p1 p2 payload) s = .refused .payloadTooLong)

/-- The properties R75 lists, in registers. After `FRM.BUILD` the payload slices of the packets in order are `PBUF`, each byte exactly
once, and a payload of at most 254 bytes is one packet with header `[cla, ins, p1, p2, L]`; after `FRM.BUILDX` there is one packet,
with a one-byte length and the payload behind it up to 255 bytes, else 0x00, the two-byte big-endian length, and the payload. -/
def Obligations.PayloadSlicesRejoin : Prop :=
  ∀ (cla ins p1 p2 : Byte) (payload : Bytes) (s t : State),
    (exec (.frmBuild cla ins p1 p2 payload) s = .next t →
      t.cmd.pbuf = payload ∧ t.cmd.pktq.flatMap (fun p => p.drop 5) = t.cmd.pbuf ∧
      (payload.length ≤ 254 → t.cmd.pktq = [[cla, ins, p1, p2, BitVec.ofNat 8 payload.length] ++ payload])) ∧
    (exec (.frmBuildx cla ins p1 p2 payload) s = .next t →
      t.cmd.pbuf = payload ∧ ∃ p, t.cmd.pktq = [p] ∧ p.take 4 = [cla, ins, p1, p2] ∧
        (payload.length ≤ 255 → p.drop 5 = t.cmd.pbuf ∧ (p.getD 4 0).toNat = payload.length) ∧
        (255 < payload.length → p.drop 7 = t.cmd.pbuf ∧ p.getD 4 0 = 0x00 ∧
          (p.getD 5 0).toNat * 256 + (p.getD 6 0).toNat = payload.length))

/-- Packet count and sizes of a chained build (R16, R49, R53, R73): PKTN in closed form, every packet but the last 259 bytes opening
`10 ins p1 p2 FE`, the last one 5 + r bytes with 1 ≤ r ≤ 254 unless the payload is empty. -/
def Obligations.ChainedPacketCountAndSizes : Prop :=
  ∀ (cla ins p1 p2 : Byte) (payload : Bytes),
    ∃ (chain : List Bytes) (final : Bytes),
      frame false cla ins p1 p2 payload = chain ++ [final] ∧
      chain.length = (if payload.length = 0 then 0 else (payload.length - 1) / 254) ∧
      (payload.length ≤ 65535 → chain.length + 1 ≤ 259) ∧
      (∀ p ∈ chain, p.length = 259 ∧ p.take 5 = [0x10, ins, p1, p2, 0xFE]) ∧
      final.take 4 = [cla, ins, p1, p2] ∧ final.length ≤ 259 ∧
      (payload = [] → final = [cla, ins, p1, p2, 0x00]) ∧ (payload ≠ [] → 6 ≤ final.length)

/-- For payloads of at most 254 bytes both builds give the same packets (R72 corner case (b)); at 255 bytes they differ. -/
def Obligations.BuildsAgreeUpTo254 : Prop :=
  ∀ (cla ins p1 p2 : Byte) (payload : Bytes),
    (payload.length ≤ 254 → frame false cla ins p1 p2 payload = frame true cla ins p1 p2 payload) ∧
    (254 < payload.length → frame false cla ins p1 p2 payload ≠ frame true cla ins p1 p2 payload)

/-- The four packet forms run in every state, for every slice of a length their format holds (R48 to R52): the packet's bytes, written
out, are appended to the packets of the build in flight, `k` advances for `PKT.CHAIN` alone (R25), and nothing else changes. A slice
of another length is no such form and is refused by name. That a form run by itself is a step of the build in flight is the model's
reading (log entry 5). In every state is the model's choice too: what the forms add up to is not held to `PAYLOAD_MAX` (log entry
13), they follow one another in any order, an empty `PKT.FINAL` after `PKT.CHAIN` among them, where R48 has `Lc` = 0 for an empty
whole payload only (log entry 14), and a decoding in flight stays as it is (log entry 17). -/
def Obligations.PacketFormsAppendTheirPacket : Prop :=
  ∀ (cla ins p1 p2 : Byte) (d : Bytes) (s : State) (w : FramerWork),
    w = s.framer.getD { k := 1, packets := [], packet := [] } →
    (d.length ≤ 254 →
      let p := [cla, ins, p1, p2, BitVec.ofNat 8 d.length] ++ d
      exec (.pktFinal cla ins p1 p2 d) s =
        .next { s with framer := some { k := w.k, packets := w.packets ++ [p], packet := p } }) ∧
    (254 < d.length → exec (.pktFinal cla ins p1 p2 d) s = .refused .notThisForm) ∧
    (d.length = 254 →
      let p := [0x10, ins, p1, p2, 0xFE] ++ d
      exec (.pktChain ins p1 p2 d) s =
        .next { s with framer := some { k := w.k + 1, packets := w.packets ++ [p], packet := p } }) ∧
    (d.length ≠ 254 → exec (.pktChain ins p1 p2 d) s = .refused .notThisForm) ∧
    (d.length ≤ 255 →
      let p := [cla, ins, p1, p2, BitVec.ofNat 8 d.length] ++ d
      exec (.pktExt1 cla ins p1 p2 d) s =
        .next { s with framer := some { k := w.k, packets := w.packets ++ [p], packet := p } }) ∧
    (255 < d.length → exec (.pktExt1 cla ins p1 p2 d) s = .refused .notThisForm) ∧
    (255 < d.length ∧ d.length ≤ 65535 →
      let p := [cla, ins, p1, p2, 0x00, BitVec.ofNat 8 (d.length / 256), BitVec.ofNat 8 d.length] ++ d
      exec (.pktExt3 cla ins p1 p2 d) s =
        .next { s with framer := some { k := w.k, packets := w.packets ++ [p], packet := p } }) ∧
    (d.length ≤ 255 ∨ 65535 < d.length → exec (.pktExt3 cla ins p1 p2 d) s = .refused .notThisForm)

/-- The build, packet by packet, is the build at once: from any state with no build in flight, running `PKT.CHAIN` for each full
block and then `PKT.FINAL` leaves in flight exactly the packet list `FRM.BUILD` writes to `PKTQ`, with `k` at its end value
(R25 (a), R71), and changes no register. -/
def Obligations.PacketFormsWriteTheBuild : Prop :=
  ∀ (cla ins p1 p2 : Byte) (payload : Bytes) (s t : State),
    s.framer = none → exec (.frmBuild cla ins p1 p2 payload) s = .next t →
    ∃ u w, execAll (chainForms cla ins p1 p2 payload) s = .next u ∧ u.framer = some w ∧
      w.packets = t.cmd.pktq ∧ w.k = chainingCount payload.length + 1 ∧
      u = { s with framer := some w }

/-! ## The reply splitter -/

/-- `RSP.PARSE` (R77) of a reply within `RBUF_MAX`: with two bytes or more it completes, data and status rejoin to the reply, and only
the response group, `ERR` and the outcome are written; with fewer it faults, and writes `ERR` alone. -/
def Obligations.ParseSplitsTheReply : Prop :=
  ∀ (raw : Bytes) (s : State), (∀ n, s.params.rbufMax = some n → raw.length ≤ n) →
    (2 ≤ raw.length →
      ∃ t, exec (.rspParse raw) s = .next t ∧
        t.rsp.data ++ [t.rsp.sw1, t.rsp.sw2] = raw ∧ t.rsp.dlen = raw.length - 2 ∧ t.rsp.rv = true ∧
        t.err = none ∧ t.outcome = some (.done (.response t.rsp.data t.rsp.sw1 t.rsp.sw2)) ∧
        t.cmd = s.cmd ∧ t.tlv = s.tlv ∧ t.look = s.look ∧ t.params = s.params ∧ t.inbox = s.inbox ∧
        t.framer = none ∧ t.decoder = none) ∧
    (raw.length < 2 →
      exec (.rspParse raw) s =
        .next { s with err := some .tooShortReply, framer := none, decoder := none,
                       outcome := some (.fault .tooShortReply) })

/-- `TooShortReply` (R98): a reply of 0 or 1 bytes within `RBUF_MAX` is taken and leaves `ERR` = 1; `RSP.PARSE` leaves 1 only then; and
from a state without it no other instruction leaves it. -/
def Obligations.TooShortReplyExactly : Prop :=
  (∀ (raw : Bytes) (s : State), (∀ n, s.params.rbufMax = some n → raw.length ≤ n) → raw.length < 2 →
    ∃ t, exec (.rspParse raw) s = .next t ∧ errCode t.err = 1 ∧ t.outcome = some (.fault .tooShortReply)) ∧
  (∀ (raw : Bytes) (s t : State), exec (.rspParse raw) s = .next t →
    (errCode t.err = 1 ↔ raw.length < 2)) ∧
  (∀ (i : Instr) (s t : State), (∀ raw, i ≠ .rspParse raw) → errCode s.err ≠ 1 → exec i s = .next t →
    errCode t.err ≠ 1)

/-- `RSP.OKAY` (R78): with `RV = 1` it completes and answers whether SW1 = 0x90 and SW2 = 0x00, writing no register, not even `ERR`;
with `RV = 0` it is refused. -/
def Obligations.OkayAnswersTheStatus : Prop :=
  ∀ s : State,
    (s.rsp.rv = true →
      exec .rspOkay s =
        .next { s with framer := none, decoder := none,
                       outcome := some (.done (.okay (decide (s.rsp.sw1 = 0x90 ∧ s.rsp.sw2 = 0x00)))) }) ∧
    (s.rsp.rv = false → exec .rspOkay s = .refused .noResponse)

/-- `RSP.AVAIL` (R79): with `RV = 1` it completes and answers `Some(SW2)` when SW1 = 0x61, also for SW2 = 0, else `None`, writing no
register; with `RV = 0` it is refused. -/
def Obligations.AvailAnswersTheCount : Prop :=
  ∀ s : State,
    (s.rsp.rv = true →
      exec .rspAvail s =
        .next { s with framer := none, decoder := none,
                       outcome := some (.done (.avail (if s.rsp.sw1 = 0x61 then some s.rsp.sw2 else none))) }) ∧
    (s.rsp.rv = false → exec .rspAvail s = .refused .noResponse)

/-- `OKAY` and `MORE` are never both 1 (R18), so `RSP.OKAY` and `RSP.AVAIL` never both answer yes (R79 corner case (c)). -/
def Obligations.OkayAndMoreNeverBoth : Prop :=
  ∀ (s t u : State) (n : Byte), exec .rspOkay s = .next t → exec .rspAvail s = .next u →
    ¬ (t.outcome = some (.done (.okay true)) ∧ u.outcome = some (.done (.avail (some n))))

/-- The reply and status forms run wherever a reply of their length fits: the response group then holds that reply, `ERR` = `None`, and
nothing else changes but the outcome; the three classes of R56 show in the flags: (90, 00) gives `OKAY` alone, (61, n) `MORE` with
`AVAIL` = n, any other pair neither. That a form run by itself is `RSP.PARSE` of that reply is the model's reading (log entry 5). -/
def Obligations.ReplyFormsWriteTheResponse : Prop :=
  ∀ (s : State) (data : Bytes) (a b n : Byte),
    (∀ m, s.params.rbufMax = some m → data.length + 2 ≤ m) →
    let after (d : Bytes) (x y : Byte) : State :=
      { s with rsp := ⟨true, d, d.length, x, y⟩, err := none, framer := none, decoder := none,
               outcome := some (.done (.response d x y)) }
    exec (.rpl data a b) s = .next (after data a b) ∧
    (exec .swOk s = .next (after [] 0x90 0x00) ∧
      okayFlag (after [] 0x90 0x00).rsp = true ∧ moreFlag (after [] 0x90 0x00).rsp = false) ∧
    (exec (.swMore n) s = .next (after [] 0x61 n) ∧
      okayFlag (after [] 0x61 n).rsp = false ∧ moreFlag (after [] 0x61 n).rsp = true ∧ availCount (after [] 0x61 n).rsp = n) ∧
    (¬ (a = 0x90 ∧ b = 0x00) → a ≠ 0x61 →
      exec (.swOther a b) s = .next (after [] a b) ∧
      okayFlag (after [] a b).rsp = false ∧ moreFlag (after [] a b).rsp = false) ∧
    ((a = 0x90 ∧ b = 0x00) ∨ a = 0x61 → exec (.swOther a b) s = .refused .notThisForm)

/-! ## The TLV decoder -/

/-- The tag step (R81), at every cursor of every buffer: a byte whose low five bits are not all set is the whole tag; otherwise the
second byte is read, is illegal if its own low five bits are all set, and gives the tag its low seven bits; the constructed
flag is bit 5 of the first byte; a missing byte is `Truncated`. -/
def Obligations.TagStep : Prop :=
  ∀ (buf : Bytes) (pos : Nat),
    (buf[pos]? = none → decodeTag buf pos = .error (.raise .truncated)) ∧
    (∀ b0, buf[pos]? = some b0 → b0.toNat % 32 ≠ 31 →
      decodeTag buf pos = .ok (BitVec.ofNat 16 b0.toNat, b0.getLsbD 5, pos + 1)) ∧
    (∀ b0, buf[pos]? = some b0 → b0.toNat % 32 = 31 → buf[pos + 1]? = none →
      decodeTag buf pos = .error (.raise .truncated)) ∧
    (∀ b0 b1, buf[pos]? = some b0 → b0.toNat % 32 = 31 → buf[pos + 1]? = some b1 → b1.toNat % 32 = 31 →
      decodeTag buf pos = .error (.raise .badTagExtension)) ∧
    (∀ b0 b1, buf[pos]? = some b0 → b0.toNat % 32 = 31 → buf[pos + 1]? = some b1 → b1.toNat % 32 ≠ 31 →
      decodeTag buf pos =
        .ok (BitVec.ofNat 16 (b0.toNat * 256 + b1.toNat % 128), b0.getLsbD 5, pos + 2))

/-- The length step (R82), at every cursor of every buffer: short form, 0x81 and one byte, 0x82 and two bytes big-endian; any other
byte is `BadLength`, decided by itself whatever follows; a missing byte is `Truncated`. -/
def Obligations.LengthStep : Prop :=
  ∀ (buf : Bytes) (pos : Nat),
    (buf[pos]? = none → decodeLen buf pos = .error (.raise .truncated)) ∧
    (∀ l0, buf[pos]? = some l0 → l0.toNat < 0x80 →
      decodeLen buf pos = .ok (BitVec.ofNat 16 l0.toNat, pos + 1)) ∧
    (buf[pos]? = some 0x81 →
      (buf[pos + 1]? = none → decodeLen buf pos = .error (.raise .truncated)) ∧
      (∀ l1, buf[pos + 1]? = some l1 → decodeLen buf pos = .ok (BitVec.ofNat 16 l1.toNat, pos + 2))) ∧
    (buf[pos]? = some 0x82 →
      (buf[pos + 1]? = none ∨ buf[pos + 2]? = none → decodeLen buf pos = .error (.raise .truncated)) ∧
      (∀ l1 l2, buf[pos + 1]? = some l1 → buf[pos + 2]? = some l2 →
        decodeLen buf pos = .ok (BitVec.ofNat 16 (l1.toNat * 256 + l2.toNat), pos + 3))) ∧
    (∀ l0, buf[pos]? = some l0 → l0.toNat = 0x80 ∨ 0x83 ≤ l0.toNat →
      decodeLen buf pos = .error (.raise .badLength))

/-- The value step (R83): exactly `length` bytes when they are there, none left out and none added; else `Truncated`. -/
def Obligations.ValueStep : Prop :=
  ∀ (buf : Bytes) (pos : Nat) (length : Half), pos ≤ buf.length →
    (∀ front value back, buf = front ++ value ++ back → front.length = pos → value.length = length.toNat →
      takeValue buf pos length = .ok (value, pos + length.toNat)) ∧
    (buf.length - pos < length.toNat → takeValue buf pos length = .error (.raise .truncated))

/-- One object (R84): from what the three steps answer on its fields, whatever bytes follow it: a primitive object, or one decoded
without recursion, keeps its value and leaves the bytes after it; a constructed object decoded recursively has its value
decoded into children, and leaves nothing or the bytes after it as `TAIL` says. -/
def Obligations.ObjectDecodes : Prop :=
  ∀ (p : Config.Params) (flag : Bool) (depth : Nat) (tagField lenField value after : Bytes)
    (tag length : Half) (constructed : Bool),
    decodeTag tagField 0 = .ok (tag, constructed, tagField.length) →
    decodeLen lenField 0 = .ok (length, lenField.length) →
    value.length = length.toNat →
    (constructed = false ∨ flag = false →
      decodeOne p flag depth (tagField ++ lenField ++ value ++ after) = .ok (⟨tag, length, value, .nil⟩, after)) ∧
    (constructed = true → flag = true → (∀ m, p.depthMax = some m → depth + 1 ≤ m) →
      ∀ subs, decodeList p flag (depth + 1) value = .ok subs →
        decodeOne p flag depth (tagField ++ lenField ++ value ++ after) =
          .ok (⟨tag, length, value, subs⟩, if p.tail = .drop then [] else after)) ∧
    (constructed = true → flag = true → (∀ m, p.depthMax = some m → depth + 1 ≤ m) →
      ∀ k, decodeList p flag (depth + 1) value = .error (.raise k) →
        decodeOne p flag depth (tagField ++ lenField ++ value ++ after) = .error (.raise k)) ∧
    (constructed = true → flag = true → (∃ m, p.depthMax = some m ∧ m < depth + 1) →
      decodeOne p flag depth (tagField ++ lenField ++ value ++ after) = .error (.raise .depthExceeded))

/-- The forest decoder meets the pseudocode of R85, with no counter in sight: the empty buffer gives the empty forest; a filler byte is
skipped; otherwise one object is decoded and the decoding goes on with whatever remainder it reports, and the first fault, at
any depth, is the fault of the whole (R87). -/
def Obligations.ForestDecoderMeetsThePseudocode : Prop :=
  ∀ (p : Config.Params) (flag : Bool) (depth : Nat),
    decodeList p flag depth [] = .ok .nil ∧
    (∀ (b : Byte) (rest : Bytes), b = 0x00 ∨ b = 0xFF →
      decodeList p flag depth (b :: rest) = decodeList p flag depth rest) ∧
    (∀ (b : Byte) (rest : Bytes), b ≠ 0x00 → b ≠ 0xFF →
      (∀ e, decodeOne p flag depth (b :: rest) = .error e → decodeList p flag depth (b :: rest) = .error e) ∧
      (∀ node remainder, decodeOne p flag depth (b :: rest) = .ok (node, remainder) →
        (∀ e, decodeList p flag depth remainder = .error e →
          decodeList p flag depth (b :: rest) = .error e) ∧
        (∀ nodes, decodeList p flag depth remainder = .ok nodes →
          decodeList p flag depth (b :: rest) = .ok (node.before nodes))))

/-- `TLV.ONE` (R84) on a buffer within `IBUF_MAX`: it completes in every case but a node count over `NODE_MAX`; `Done` writes
`FOREST` = [node], `REM`, `FV`, `ERR` = `None`; a fault at any depth writes `ERR` alone and leaves the old forest (R87). -/
def Obligations.TlvOneWritesTheNode : Prop :=
  ∀ (buf : Bytes) (flag : Bool) (s : State), (∀ n, s.params.ibufMax = some n → buf.length ≤ n) →
    (∀ node remainder, decodeOne s.params flag 0 buf = .ok (node, remainder) →
      (∀ n, s.params.nodeMax = some n → 1 + node.subs.count ≤ n) →
      exec (.tlvOne buf flag) s =
        .next { s with tlv := ⟨true, .cons node.tag node.length node.value node.subs .nil, remainder⟩, err := none,
                       framer := none, decoder := none, outcome := some (.done (.one node remainder)) }) ∧
    (∀ k, decodeOne s.params flag 0 buf = .error (.raise k) →
      exec (.tlvOne buf flag) s =
        .next { s with err := some k, framer := none, decoder := none, outcome := some (.fault k) })

/-- `TLV.LIST` (R85) on a buffer within `IBUF_MAX`: `Done` writes `FOREST`, `REM` = [], `FV`, `ERR` = `None`; a fault at any depth writes
`ERR` alone, and nothing of the objects already decoded is kept (R87). -/
def Obligations.TlvListWritesTheForest : Prop :=
  ∀ (buf : Bytes) (flag : Bool) (s : State), (∀ n, s.params.ibufMax = some n → buf.length ≤ n) →
    (∀ nodes, decodeList s.params flag 0 buf = .ok nodes →
      (∀ n, s.params.nodeMax = some n → nodes.count ≤ n) →
      exec (.tlvList buf flag) s =
        .next { s with tlv := ⟨true, nodes, []⟩, err := none,
                       framer := none, decoder := none, outcome := some (.done (.forest nodes)) }) ∧
    (∀ k, decodeList s.params flag 0 buf = .error (.raise k) →
      exec (.tlvList buf flag) s =
        .next { s with err := some k, framer := none, decoder := none, outcome := some (.fault k) })

/-- Both decoding operations complete on objects written out, whatever the recursive flag, `TAIL` and `DEPTH_MAX`: any number of
primitive objects with one-byte tags and short lengths is the forest of exactly those nodes for `TLV.LIST` (a tag of 0x00 would be
filler there), and the first of them with the bytes after it as remainder for `TLV.ONE` (R83 to R85). -/
def Obligations.PrimitiveObjectsDecode : Prop :=
  ∀ (s : State) (flag : Bool), s.params.ibufMax = none → s.params.nodeMax = none →
    (∀ objects : List (Byte × Bytes),
      (∀ o ∈ objects, o.1.toNat % 32 ≠ 31 ∧ o.1.getLsbD 5 = false ∧ o.1 ≠ 0x00 ∧ o.2.length ≤ 127) →
      let nodes := objects.foldr
        (fun o f => Forest.cons (BitVec.ofNat 16 o.1.toNat) (BitVec.ofNat 16 o.2.length) o.2 .nil f) .nil
      exec (.tlvList (objects.flatMap (fun o => o.1 :: BitVec.ofNat 8 o.2.length :: o.2)) flag) s =
        .next { s with tlv := ⟨true, nodes, []⟩, err := none,
                       framer := none, decoder := none, outcome := some (.done (.forest nodes)) }) ∧
    (∀ (b0 : Byte) (value after : Bytes),
      b0.toNat % 32 ≠ 31 → b0.getLsbD 5 = false → value.length ≤ 127 →
      let node : Node := ⟨BitVec.ofNat 16 b0.toNat, BitVec.ofNat 16 value.length, value, .nil⟩
      exec (.tlvOne (b0 :: BitVec.ofNat 8 value.length :: value ++ after) flag) s =
        .next { s with tlv := ⟨true, .cons node.tag node.length node.value node.subs .nil, after⟩, err := none,
                       framer := none, decoder := none, outcome := some (.done (.one node after)) })

/-- Every tree decodes back from its own bytes: written out with the tag fields of R59 and R60 and the length fields of R62 to R64,
nested to any depth, with constructed objects anywhere among their siblings, it is what the recursive decoder answers when
`TAIL` is `KEEP` and no depth bound is set (R20, R81 to R85). -/
def Obligations.TreesDecodeFromTheirBytes : Prop :=
  ∀ (p : Config.Params) (depth : Nat) (f : Forest), p.tail = .keep → p.depthMax = none →
    isWireTree f = true → decodeList p true depth (wireBytes f) = .ok f

/-- The fault of a step is the fault of the object, and of the buffer it opens (R81 to R85, R87, R103): if the tag step stops, or the
length step after it, or the value step after both, `TLV.ONE`'s decoding stops with that same kind, and so does `TLV.LIST`'s when the
first byte is there and is not filler; nothing after the stop is looked at. -/
def Obligations.StepFaultIsTheObjectsFault : Prop :=
  ∀ (p : Config.Params) (flag : Bool) (depth : Nat) (buf : Bytes) (e : Stop),
    (decodeTag buf 0 = .error e ∨
      (∃ tag c pos, decodeTag buf 0 = .ok (tag, c, pos) ∧
        (decodeLen buf pos = .error e ∨
          ∃ length pos', decodeLen buf pos = .ok (length, pos') ∧ takeValue buf pos' length = .error e))) →
    decodeOne p flag depth buf = .error e ∧
    (buf ≠ [] → buf.head? ≠ some 0x00 → buf.head? ≠ some 0xFF → decodeList p flag depth buf = .error e)

/-- The illegal bytes fault whatever follows them, at once (R99, R100, R103): two tag bytes with their low five bits all set give
`BadTagExtension` even before an illegal length byte; a tag of one byte or of two and an illegal length byte give `BadLength` even
at the buffer's end. In `TLV.LIST` too, the first tag byte not being filler. -/
def Obligations.IllegalBytesFaultWhateverFollows : Prop :=
  ∀ (p : Config.Params) (flag : Bool) (depth : Nat) (b0 b1 l0 : Byte) (rest : Bytes),
    (b0.toNat % 32 = 31 → b1.toNat % 32 = 31 →
      decodeOne p flag depth (b0 :: b1 :: rest) = .error (.raise .badTagExtension) ∧
      (b0 ≠ 0xFF → decodeList p flag depth (b0 :: b1 :: rest) = .error (.raise .badTagExtension))) ∧
    (b0.toNat % 32 ≠ 31 → l0.toNat = 0x80 ∨ 0x83 ≤ l0.toNat →
      decodeOne p flag depth (b0 :: l0 :: rest) = .error (.raise .badLength) ∧
      (b0 ≠ 0x00 → decodeList p flag depth (b0 :: l0 :: rest) = .error (.raise .badLength))) ∧
    (b0.toNat % 32 = 31 → b1.toNat % 32 ≠ 31 → l0.toNat = 0x80 ∨ 0x83 ≤ l0.toNat →
      decodeOne p flag depth (b0 :: b1 :: l0 :: rest) = .error (.raise .badLength) ∧
      (b0 ≠ 0xFF → decodeList p flag depth (b0 :: b1 :: l0 :: rest) = .error (.raise .badLength)))

/-- Buffers that end before their object does are `Truncated`, in `TLV.ONE` and, where the first byte is not filler, in `TLV.LIST`
(R101): (a) an empty buffer, in `TLV.ONE` alone; (b) the end after a first tag byte that announces a second; (c) the end after a
tag field of one byte or of two; (d) the end after 0x81, after 0x82, or after 0x82 and one byte; (e) fewer value bytes than any of
the three length forms says. An empty buffer, or one of filler alone, is no fault of `TLV.LIST` and gives the empty forest (R85,
R110). -/
def Obligations.ShortBuffersAndFillerAlone : Prop :=
  ∀ (p : Config.Params) (flag : Bool) (depth : Nat),
    decodeOne p flag depth [] = .error (.raise .truncated) ∧
    (∀ filler : Bytes, (∀ b ∈ filler, b = 0x00 ∨ b = 0xFF) → decodeList p flag depth filler = .ok .nil) ∧
    (∀ b : Byte, b.toNat % 32 = 31 →
      decodeOne p flag depth [b] = .error (.raise .truncated) ∧
      (b ≠ 0xFF → decodeList p flag depth [b] = .error (.raise .truncated))) ∧
    (∀ tagBytes rest : Bytes,
      (∃ b0 : Byte, tagBytes = [b0] ∧ b0.toNat % 32 ≠ 31) ∨
        (∃ b0 b1 : Byte, tagBytes = [b0, b1] ∧ b0.toNat % 32 = 31 ∧ b1.toNat % 32 ≠ 31) →
      rest = [] ∨ rest = [0x81] ∨ rest = [0x82] ∨ (∃ l1 : Byte, rest = [0x82, l1]) ∨
        (∃ (l0 : Byte) (value : Bytes), rest = l0 :: value ∧ l0.toNat < 0x80 ∧ value.length < l0.toNat) ∨
        (∃ (l1 : Byte) (value : Bytes), rest = 0x81 :: l1 :: value ∧ value.length < l1.toNat) ∨
        (∃ (l1 l2 : Byte) (value : Bytes), rest = 0x82 :: l1 :: l2 :: value ∧ value.length < l1.toNat * 256 + l2.toNat) →
      decodeOne p flag depth (tagBytes ++ rest) = .error (.raise .truncated) ∧
      (tagBytes.head? ≠ some 0x00 → tagBytes.head? ≠ some 0xFF →
        decodeList p flag depth (tagBytes ++ rest) = .error (.raise .truncated)))

/-- Filler before the objects of a buffer never changes the result, and filler after a buffer that decodes does not either (R66,
R89 (c)); filler between two buffers that decode does not change the forest of the two together. -/
def Obligations.FillerBetweenObjectsIsSkipped : Prop :=
  ∀ (p : Config.Params) (flag : Bool) (depth : Nat) (filler buf more : Bytes),
    (∀ b ∈ filler, b = 0x00 ∨ b = 0xFF) →
    decodeList p flag depth (filler ++ buf) = decodeList p flag depth buf ∧
    (∀ f, decodeList p flag depth buf = .ok f →
      decodeList p flag depth (buf ++ filler) = .ok f ∧
      decodeList p flag depth (buf ++ filler ++ more) = decodeList p flag depth (buf ++ more))

/-- Every node a decoding produces keeps the invariants of R20 (a) and (b) and a tag of R67 (d), at every depth; without the recursive
flag no node has children (R85 corner case (e)). -/
def Obligations.DecodedNodesAreWellFormed : Prop :=
  ∀ (p : Config.Params) (flag : Bool) (depth : Nat) (buf : Bytes) (f : Forest),
    decodeList p flag depth buf = .ok f → wfForest f = true ∧ (flag = false → flat f = true)

/-- A constructed node's children are its own value decoded again, at every depth (R20 (c) (d)): the value is kept whole beside them.
Stated for an unbounded depth, where the level a value is decoded at makes no difference. -/
def Obligations.ChildrenAreTheValueDecoded : Prop :=
  ∀ (p : Config.Params) (depth : Nat) (buf : Bytes) (f : Forest), p.depthMax = none →
    decodeList p true depth buf = .ok f →
    ∀ n ∈ f.preorder, tagConstructed n.tag = true → decodeList p true depth n.value = .ok n.subs

/-- Bounds on what a decoding produces (R86): at most floor(|buf| / 2) nodes and at most floor(|buf| / 2) levels. -/
def Obligations.NodeAndLevelBounds : Prop :=
  ∀ (p : Config.Params) (flag : Bool) (depth : Nat) (buf : Bytes) (f : Forest),
    decodeList p flag depth buf = .ok f → 2 * f.count ≤ buf.length ∧ 2 * f.levels ≤ buf.length

/-- The depth bound (R88, R102): with a finite `DEPTH_MAX` nodes exist at depths 0 to `DEPTH_MAX` only; with an unbounded one
`DepthExceeded` can not happen; without the recursive flag it never happens. -/
def Obligations.DepthBound : Prop :=
  ∀ (p : Config.Params) (flag : Bool) (buf : Bytes),
    (∀ m f, p.depthMax = some m → decodeList p flag 0 buf = .ok f → f.levels ≤ m + 1) ∧
    (p.depthMax = none ∨ flag = false → decodeList p flag 0 buf ≠ .error (.raise .depthExceeded)) ∧
    (∀ m, p.depthMax = some m → buf.length / 2 ≤ m →
      decodeList p flag 0 buf ≠ .error (.raise .depthExceeded))

/-- Under `TAIL = DROP` a recursive decoding ends at the first constructed object of each level (R85 corner case (a), R118). -/
def Obligations.DropEndsAtTheConstructedObject : Prop :=
  ∀ (p : Config.Params) (depth : Nat) (buf : Bytes) (f : Forest), p.tail = .drop →
    decodeList p true depth buf = .ok f → constructedLast f = true

/-- Under `TAIL = KEEP` whatever decodes recursively decodes flat as well, into as many top-level nodes, of the same tags, lengths and
values (95_test_vectors.md section 4 (g)). -/
def Obligations.KeptRecursiveDecodingIsFlatDecoding : Prop :=
  ∀ (p : Config.Params) (buf : Bytes) (f : Forest), p.tail = .keep → decodeList p true 0 buf = .ok f →
    ∃ g, decodeList p false 0 buf = .ok g ∧
      g.toList.map (fun n => (n.tag, n.length, n.value)) = f.toList.map (fun n => (n.tag, n.length, n.value))

/-! ## The lookup -/

/-- `FindNode` (R90): the node itself first, then each child in order, the first answer returned, `None` if none. -/
def Obligations.FindNodeSearchesChildrenInOrder : Prop :=
  ∀ (n : Node) (key : Half),
    findNode n key = if n.tag = key then some n else n.subs.toList.findSome? (fun c => findNode c key)

/-- The lookup over the forest is the first match of the pre-order walk, `None` exactly when no node of the tree carries the tag (R91,
R92). -/
def Obligations.FindIsTheFirstPreorderMatch : Prop :=
  ∀ (f : Forest) (key : Half),
    findIn key f = f.preorder.find? (fun n => decide (n.tag = key)) ∧
    (findIn key f = none ↔ ∀ n ∈ f.preorder, n.tag ≠ key)

/-- `TLV.FIND` (R91): with `FV = 1` it completes for every key: `KEY` is written, the roots are searched in order, `HIT` and, when
found, `FOUND` follow; `FOREST`, `ERR` and all else stay; with `FV = 0` it is refused. -/
def Obligations.FindWritesKeyHitFound : Prop :=
  ∀ (key : Half) (s : State),
    (s.tlv.fv = true →
      ∃ t r, r = s.tlv.forest.toList.findSome? (fun n => findNode n key) ∧
        exec (.tlvFind key) s = .next t ∧
        t.look.key = key ∧ t.look.keyed = true ∧ t.look.hit = r.isSome ∧ (∀ n, r = some n → t.look.found = n) ∧
        t.outcome = some (.done (.found r)) ∧
        t.tlv = s.tlv ∧ t.err = s.err ∧ t.cmd = s.cmd ∧ t.rsp = s.rsp ∧ t.params = s.params ∧ t.inbox = s.inbox) ∧
    (s.tlv.fv = false → exec (.tlvFind key) s = .refused .noForest)

/-- A key no decoder can produce is never found in a decoded forest (R67 (d), R91 corner case (e), R120). -/
def Obligations.UnproducibleKeyIsNeverFound : Prop :=
  ∀ (p : Config.Params) (flag : Bool) (buf : Bytes) (f : Forest) (key : Half),
    decodeList p flag 0 buf = .ok f → tagProducible key = false → findIn key f = none

/-! ## The tag, length and filler forms -/

/-- With no decoding in flight each legal form runs for every byte its rule allows, opens the decoding at depth 0 on its own bytes and
keeps the fields R81 and R82 return: tag and constructed flag, or length; a filler form keeps nothing (R66); nothing else
changes. That a form run by itself is a step of the decoding in flight is the model's reading (log entry 5). The zeros in the fields
that no form has read are the model's choice (log entry 16), and so are that a build in flight stays beside it (log entry 17) and that
any of the forms may come first, the tag byte 0x00 and the filler forms alike (log entry 18). -/
def Obligations.FieldFormsRunFromIdle : Prop :=
  ∀ (s : State) (a b : Byte), s.decoder = none →
    (a.toNat % 32 ≠ 31 →
      exec (.tag1 a) s =
        .next { s with decoder := some ⟨[⟨[a], 1, []⟩], BitVec.ofNat 16 a.toNat, a.getLsbD 5, 0⟩ }) ∧
    (a.toNat % 32 = 31 → b.toNat % 32 ≠ 31 →
      exec (.tag2 a b) s =
        .next { s with decoder := some ⟨[⟨[a, b], 2, []⟩], BitVec.ofNat 16 (a.toNat * 256 + b.toNat % 128), a.getLsbD 5, 0⟩ }) ∧
    (a.toNat < 0x80 →
      exec (.lenShort a) s =
        .next { s with decoder := some ⟨[⟨[a], 1, []⟩], 0, false, BitVec.ofNat 16 a.toNat⟩ }) ∧
    exec (.lenOne a) s =
      .next { s with decoder := some ⟨[⟨[0x81, a], 2, []⟩], 0, false, BitVec.ofNat 16 a.toNat⟩ } ∧
    exec (.lenTwo a b) s =
      .next { s with decoder := some ⟨[⟨[0x82, a, b], 3, []⟩], 0, false, BitVec.ofNat 16 (a.toNat * 256 + b.toNat)⟩ } ∧
    exec .fill00 s = .next { s with decoder := some ⟨[⟨[0x00], 1, []⟩], 0, false, 0⟩ } ∧
    exec .fillFF s = .next { s with decoder := some ⟨[⟨[0xFF], 1, []⟩], 0, false, 0⟩ }

/-- With a decoding in flight a legal form runs when its bytes stand at the cursor of the innermost level, and that cursor moves past
them (R25 (b)); when the level holds no byte from its cursor on, they are taken as arriving next; when other bytes stand there the
form is refused. The outer levels and the children so far stay, and no register changes. The step, the bytes taken as arriving and the
refusal are the model's reading (log entry 5); no capacity bounds the bytes taken (log entry 13), a build in flight stays (log
entry 17), and which field is due at the cursor is not asked, so filler is taken where a length byte is due (log entry 18). -/
def Obligations.FieldFormsMoveTheCursor : Prop :=
  ∀ (i : Instr) (s : State) (d : DecoderWork), isFieldForm i = true → i.wellFormed = true → s.decoder = some d →
    (d.frames = [] →
      ∃ e, exec i s = .next { s with decoder := some e } ∧
        e.frames = [⟨(encode i).bytes, (encode i).bytes.length, []⟩]) ∧
    (∀ (f : Frame) (outer : List Frame), d.frames = f :: outer →
      ((∃ after, f.slice.drop f.pos = (encode i).bytes ++ after) →
        ∃ e, exec i s = .next { s with decoder := some e } ∧
          e.frames = ⟨f.slice, f.pos + (encode i).bytes.length, f.kids⟩ :: outer) ∧
      (f.pos = f.slice.length →
        ∃ e, exec i s = .next { s with decoder := some e } ∧
          e.frames = ⟨f.slice ++ (encode i).bytes, f.pos + (encode i).bytes.length, f.kids⟩ :: outer) ∧
      ((¬ ∃ after, f.slice.drop f.pos = (encode i).bytes ++ after) → f.pos ≠ f.slice.length →
        exec i s = .refused .notAtCursor))

/-- The legal forms are the steps of the decoder: at any cursor of any buffer, if the tag step answers (R81), the bytes it read decode to a
tag form, and running that form on a decoding in flight there keeps the same tag and flag and moves the cursor to the same
place; the same for the length step (R82). That a form run by itself is such a step is the model's reading (log entry 5), and it keeps the field it
does not read (log entry 16). -/
def Obligations.FieldFormsAgreeWithTheSteps : Prop :=
  ∀ (s : State) (d : DecoderWork) (f : Frame) (outer : List Frame),
    s.decoder = some d → d.frames = f :: outer →
    (∀ tag c pos, decodeTag f.slice f.pos = .ok (tag, c, pos) →
      ∃ i, decode ⟨.tag, (f.slice.drop f.pos).take (pos - f.pos)⟩ = .ok i ∧
        exec i s =
          .next { s with decoder := some ⟨⟨f.slice, pos, f.kids⟩ :: outer, tag, c, d.length⟩ }) ∧
    (∀ length pos, decodeLen f.slice f.pos = .ok (length, pos) →
      ∃ i, decode ⟨.len, (f.slice.drop f.pos).take (pos - f.pos)⟩ = .ok i ∧
        exec i s =
          .next { s with decoder := some ⟨⟨f.slice, pos, f.kids⟩ :: outer, d.tag, d.constructed, length⟩ })

/-- The illegal forms raise (R61, R65, R99, R100, R104): for every pair of tag bytes with the low five bits all set, and for every length
byte 0x80 or 0x83 to 0xFF, met where a decoding can meet them (none in flight, or at the cursor of one): `ERR` is 2, or 3, the
operation is over, and no other register changes. That a form run by itself is a step is the model's reading (log entry 5), and that its
fault ends a build in flight as well (log entry 17) and that it is raised at any cursor (log entry 18) are the model's choices. -/
def Obligations.IllegalFormsRaise : Prop :=
  ∀ (s : State) (b0 b1 l0 : Byte),
    (b0.toNat % 32 = 31 → b1.toNat % 32 = 31 → AtCursor s [b0, b1] →
      exec (.tagBad b0 b1) s =
        .next { s with err := some .badTagExtension, framer := none, decoder := none,
                       outcome := some (.fault .badTagExtension) }) ∧
    (l0.toNat = 0x80 ∨ 0x83 ≤ l0.toNat → AtCursor s [l0] →
      exec (.lenBad l0) s =
        .next { s with err := some .badLength, framer := none, decoder := none,
                       outcome := some (.fault .badLength) }) ∧
    errCode (some .badTagExtension) = 2 ∧ errCode (some .badLength) = 3

/-- Bytes that are not the form they are offered as are refused by name, in every state: they lack the bits by which R59 to R65 tell the
forms apart. That a form offered with other bytes is refused is the model's choice (log entry 5): R107 lists the refusals of the
spec's own requests, and this is none of them. -/
def Obligations.NoFormIsTakenForAnother : Prop :=
  ∀ (s : State) (a b : Byte),
    (a.toNat % 32 = 31 → exec (.tag1 a) s = .refused .notThisForm) ∧
    (a.toNat % 32 ≠ 31 ∨ b.toNat % 32 = 31 → exec (.tag2 a b) s = .refused .notThisForm) ∧
    (a.toNat % 32 ≠ 31 ∨ b.toNat % 32 ≠ 31 → exec (.tagBad a b) s = .refused .notThisForm) ∧
    (0x80 ≤ a.toNat → exec (.lenShort a) s = .refused .notThisForm) ∧
    (a.toNat < 0x80 ∨ a = 0x81 ∨ a = 0x82 → exec (.lenBad a) s = .refused .notThisForm)

/-! ## The host -/

/-- Valid bits (R28): while the valid bit of a group is 0 a host read of a register it guards is refused, and so is a query that needs
one; while it is 1 the read answers what the register holds, and a flag's read answers the function of `SW1` and `SW2` it is (R18).
The valid bits and `ERR` are always readable. -/
def Obligations.HostReadsNeedTheValidBit : Prop :=
  ∀ s : State,
    (s.cmd.cv = true →
      hostRead s .CLA = .ok (.byte s.cmd.cla) ∧ hostRead s .INS = .ok (.byte s.cmd.ins) ∧
      hostRead s .P1 = .ok (.byte s.cmd.p1) ∧ hostRead s .P2 = .ok (.byte s.cmd.p2) ∧
      hostRead s .PLEN = .ok (.half s.cmd.plen) ∧ hostRead s .PBUF = .ok (.bytes s.cmd.pbuf) ∧
      hostRead s .FMODE = .ok (.bit s.cmd.fmode) ∧ hostRead s .PKTN = .ok (.count s.cmd.pktn) ∧
      hostRead s .PKTQ = .ok (.packets s.cmd.pktq)) ∧
    (s.cmd.cv = false → ∀ r ∈ [Reg.CLA, .INS, .P1, .P2, .PLEN, .PBUF, .FMODE, .PKTN, .PKTQ], hostRead s r = .error .noValue) ∧
    (s.rsp.rv = true →
      hostRead s .DATA = .ok (.bytes s.rsp.data) ∧ hostRead s .DLEN = .ok (.count s.rsp.dlen) ∧
      hostRead s .SW1 = .ok (.byte s.rsp.sw1) ∧ hostRead s .SW2 = .ok (.byte s.rsp.sw2) ∧
      hostRead s .OKAY = .ok (.bit (decide (s.rsp.sw1 = 0x90 ∧ s.rsp.sw2 = 0x00))) ∧
      hostRead s .MORE = .ok (.bit (decide (s.rsp.sw1 = 0x61))) ∧ hostRead s .AVAIL = .ok (.byte s.rsp.sw2)) ∧
    (s.rsp.rv = false →
      (∀ r ∈ [Reg.DATA, .DLEN, .SW1, .SW2, .OKAY, .MORE, .AVAIL], hostRead s r = .error .noValue) ∧
      exec .rspOkay s = .refused .noResponse ∧ exec .rspAvail s = .refused .noResponse) ∧
    (s.tlv.fv = true → hostRead s .FOREST = .ok (.forest s.tlv.forest) ∧ hostRead s .REM = .ok (.bytes s.tlv.rem)) ∧
    (s.tlv.fv = false →
      hostRead s .FOREST = .error .noValue ∧ hostRead s .REM = .error .noValue ∧
      ∀ key, exec (.tlvFind key) s = .refused .noForest) ∧
    (s.look.hit = true → hostRead s .FOUND = .ok (.node s.look.found)) ∧
    (s.look.hit = false → hostRead s .FOUND = .error .noValue) ∧
    hostRead s .CV = .ok (.bit s.cmd.cv) ∧ hostRead s .RV = .ok (.bit s.rsp.rv) ∧ hostRead s .FV = .ok (.bit s.tlv.fv) ∧
    hostRead s .HIT = .ok (.bit s.look.hit) ∧ hostRead s .ERR = .ok (.code (errCode s.err))

/-- `KEY` holds a value once a lookup has run (R29, R22): a `TLV.FIND` that completes makes `KEY` readable and its key the answer, no
other instruction changes what a read of `KEY` answers, and after reset the read is refused. That the fact is kept as a bit of its
own is the model's choice (log entry 2). -/
def Obligations.KeyReadsNeedALookup : Prop :=
  (∀ (key : Half) (s t : State), exec (.tlvFind key) s = .next t → hostRead t .KEY = .ok (.half key)) ∧
  (∀ (i : Instr) (s t : State), (∀ key, i ≠ .tlvFind key) → exec i s = .next t → hostRead t .KEY = hostRead s .KEY) ∧
  hostRead State.reset .KEY = .error .noValue

/-- The transfer sequence (R93 to R95): when every packet of the build is answered, all of `PKTQ` went out in order, each packet once,
and the end state is `RSP.PARSE` of the reply to the LAST packet after the build; the replies to the others make no difference. -/
def Obligations.XferParsesOnlyTheLastReply : Prop :=
  ∀ (extended : Bool) (cla ins p1 p2 : Byte) (payload reply : Bytes) (earlier : List Bytes) (s t : State),
    exec (if extended then .frmBuildx cla ins p1 p2 payload else .frmBuild cla ins p1 p2 payload) s = .next t →
    earlier.length + 1 = t.cmd.pktn →
    packetsSent t.cmd.pktq (earlier.map some ++ [some reply]) = t.cmd.pktq ∧
    hostXfer extended cla ins p1 p2 payload (earlier.map some ++ [some reply]) s = exec (.rspParse reply) t

/-- A transport failure (R96): after an exchange that fails no further packet is sent and no reply is parsed: the end state is the one
the build left, with `ERR` = `None` and the response group as it was. -/
def Obligations.XferEndsAtATransportFailure : Prop :=
  ∀ (extended : Bool) (cla ins p1 p2 : Byte) (payload : Bytes) (earlier : List Bytes) (rest : List (Option Bytes))
    (s t : State),
    exec (if extended then .frmBuildx cla ins p1 p2 payload else .frmBuild cla ins p1 p2 payload) s = .next t →
    earlier.length < t.cmd.pktn →
    packetsSent t.cmd.pktq (earlier.map some ++ none :: rest) = t.cmd.pktq.take (earlier.length + 1) ∧
    hostXfer extended cla ins p1 p2 payload (earlier.map some ++ none :: rest) s = .next t ∧
    t.err = none ∧ t.rsp = s.rsp
end

