-- ==== Sys2Proof/Laws/State.lean ====
section
/-! SUPPORT. One lemma per field per register update, each true by rfl: what the update writes and what it leaves (R24, R104). -/

namespace Sys2Proof.Machine

@[simp] theorem finish_params (r : Result) (s : State) : (finish r s).params = s.params := rfl
@[simp] theorem finish_cmd (r : Result) (s : State) : (finish r s).cmd = s.cmd := rfl
@[simp] theorem finish_rsp (r : Result) (s : State) : (finish r s).rsp = s.rsp := rfl
@[simp] theorem finish_tlv (r : Result) (s : State) : (finish r s).tlv = s.tlv := rfl
@[simp] theorem finish_look (r : Result) (s : State) : (finish r s).look = s.look := rfl
@[simp] theorem finish_err (r : Result) (s : State) : (finish r s).err = s.err := rfl
@[simp] theorem finish_framer (r : Result) (s : State) : (finish r s).framer = none := rfl
@[simp] theorem finish_decoder (r : Result) (s : State) : (finish r s).decoder = none := rfl
@[simp] theorem finish_outcome (r : Result) (s : State) : (finish r s).outcome = some (.done r) := rfl
@[simp] theorem finish_inbox (r : Result) (s : State) : (finish r s).inbox = s.inbox := rfl

@[simp] theorem raise_params (kind : FaultKind) (s : State) : (raise kind s).params = s.params := rfl
@[simp] theorem raise_cmd (kind : FaultKind) (s : State) : (raise kind s).cmd = s.cmd := rfl
@[simp] theorem raise_rsp (kind : FaultKind) (s : State) : (raise kind s).rsp = s.rsp := rfl
@[simp] theorem raise_tlv (kind : FaultKind) (s : State) : (raise kind s).tlv = s.tlv := rfl
@[simp] theorem raise_look (kind : FaultKind) (s : State) : (raise kind s).look = s.look := rfl
@[simp] theorem raise_err (kind : FaultKind) (s : State) : (raise kind s).err = some kind := rfl
@[simp] theorem raise_framer (kind : FaultKind) (s : State) : (raise kind s).framer = none := rfl
@[simp] theorem raise_decoder (kind : FaultKind) (s : State) : (raise kind s).decoder = none := rfl
@[simp] theorem raise_outcome (kind : FaultKind) (s : State) : (raise kind s).outcome = some (.fault kind) := rfl
@[simp] theorem raise_inbox (kind : FaultKind) (s : State) : (raise kind s).inbox = s.inbox := rfl

@[simp] theorem writeCommand_params (m : Bool) (c i a b : Byte) (d : Bytes) (q : List Bytes) (s : State) : (writeCommand m c i a b d q s).params = s.params := rfl
@[simp] theorem writeCommand_cmd (m : Bool) (c i a b : Byte) (d : Bytes) (q : List Bytes) (s : State) : (writeCommand m c i a b d q s).cmd = ⟨true, m, c, i, a, b, BitVec.ofNat 16 d.length, d, q.length, q⟩ := rfl
@[simp] theorem writeCommand_rsp (m : Bool) (c i a b : Byte) (d : Bytes) (q : List Bytes) (s : State) : (writeCommand m c i a b d q s).rsp = s.rsp := rfl
@[simp] theorem writeCommand_tlv (m : Bool) (c i a b : Byte) (d : Bytes) (q : List Bytes) (s : State) : (writeCommand m c i a b d q s).tlv = s.tlv := rfl
@[simp] theorem writeCommand_look (m : Bool) (c i a b : Byte) (d : Bytes) (q : List Bytes) (s : State) : (writeCommand m c i a b d q s).look = s.look := rfl
@[simp] theorem writeCommand_err (m : Bool) (c i a b : Byte) (d : Bytes) (q : List Bytes) (s : State) : (writeCommand m c i a b d q s).err = none := rfl
@[simp] theorem writeCommand_framer (m : Bool) (c i a b : Byte) (d : Bytes) (q : List Bytes) (s : State) : (writeCommand m c i a b d q s).framer = s.framer := rfl
@[simp] theorem writeCommand_decoder (m : Bool) (c i a b : Byte) (d : Bytes) (q : List Bytes) (s : State) : (writeCommand m c i a b d q s).decoder = s.decoder := rfl
@[simp] theorem writeCommand_outcome (m : Bool) (c i a b : Byte) (d : Bytes) (q : List Bytes) (s : State) : (writeCommand m c i a b d q s).outcome = s.outcome := rfl
@[simp] theorem writeCommand_inbox (m : Bool) (c i a b : Byte) (d : Bytes) (q : List Bytes) (s : State) : (writeCommand m c i a b d q s).inbox = s.inbox := rfl

@[simp] theorem writeResponse_params (d : Bytes) (a b : Byte) (s : State) : (writeResponse d a b s).params = s.params := rfl
@[simp] theorem writeResponse_cmd (d : Bytes) (a b : Byte) (s : State) : (writeResponse d a b s).cmd = s.cmd := rfl
@[simp] theorem writeResponse_rsp (d : Bytes) (a b : Byte) (s : State) : (writeResponse d a b s).rsp = ⟨true, d, d.length, a, b⟩ := rfl
@[simp] theorem writeResponse_tlv (d : Bytes) (a b : Byte) (s : State) : (writeResponse d a b s).tlv = s.tlv := rfl
@[simp] theorem writeResponse_look (d : Bytes) (a b : Byte) (s : State) : (writeResponse d a b s).look = s.look := rfl
@[simp] theorem writeResponse_err (d : Bytes) (a b : Byte) (s : State) : (writeResponse d a b s).err = none := rfl
@[simp] theorem writeResponse_framer (d : Bytes) (a b : Byte) (s : State) : (writeResponse d a b s).framer = s.framer := rfl
@[simp] theorem writeResponse_decoder (d : Bytes) (a b : Byte) (s : State) : (writeResponse d a b s).decoder = s.decoder := rfl
@[simp] theorem writeResponse_outcome (d : Bytes) (a b : Byte) (s : State) : (writeResponse d a b s).outcome = s.outcome := rfl
@[simp] theorem writeResponse_inbox (d : Bytes) (a b : Byte) (s : State) : (writeResponse d a b s).inbox = s.inbox := rfl

@[simp] theorem writeForest_params (f : Forest) (d : Bytes) (s : State) : (writeForest f d s).params = s.params := rfl
@[simp] theorem writeForest_cmd (f : Forest) (d : Bytes) (s : State) : (writeForest f d s).cmd = s.cmd := rfl
@[simp] theorem writeForest_rsp (f : Forest) (d : Bytes) (s : State) : (writeForest f d s).rsp = s.rsp := rfl
@[simp] theorem writeForest_tlv (f : Forest) (d : Bytes) (s : State) : (writeForest f d s).tlv = ⟨true, f, d⟩ := rfl
@[simp] theorem writeForest_look (f : Forest) (d : Bytes) (s : State) : (writeForest f d s).look = s.look := rfl
@[simp] theorem writeForest_err (f : Forest) (d : Bytes) (s : State) : (writeForest f d s).err = none := rfl
@[simp] theorem writeForest_framer (f : Forest) (d : Bytes) (s : State) : (writeForest f d s).framer = s.framer := rfl
@[simp] theorem writeForest_decoder (f : Forest) (d : Bytes) (s : State) : (writeForest f d s).decoder = s.decoder := rfl
@[simp] theorem writeForest_outcome (f : Forest) (d : Bytes) (s : State) : (writeForest f d s).outcome = s.outcome := rfl
@[simp] theorem writeForest_inbox (f : Forest) (d : Bytes) (s : State) : (writeForest f d s).inbox = s.inbox := rfl

@[simp] theorem writeLookup_params (k : Half) (n : Option Node) (s : State) : (writeLookup k n s).params = s.params := rfl
@[simp] theorem writeLookup_cmd (k : Half) (n : Option Node) (s : State) : (writeLookup k n s).cmd = s.cmd := rfl
@[simp] theorem writeLookup_rsp (k : Half) (n : Option Node) (s : State) : (writeLookup k n s).rsp = s.rsp := rfl
@[simp] theorem writeLookup_tlv (k : Half) (n : Option Node) (s : State) : (writeLookup k n s).tlv = s.tlv := rfl
@[simp] theorem writeLookup_look (k : Half) (n : Option Node) (s : State) : (writeLookup k n s).look = ⟨true, k, n.isSome, n.getD s.look.found⟩ := rfl
@[simp] theorem writeLookup_err (k : Half) (n : Option Node) (s : State) : (writeLookup k n s).err = s.err := rfl
@[simp] theorem writeLookup_framer (k : Half) (n : Option Node) (s : State) : (writeLookup k n s).framer = s.framer := rfl
@[simp] theorem writeLookup_decoder (k : Half) (n : Option Node) (s : State) : (writeLookup k n s).decoder = s.decoder := rfl
@[simp] theorem writeLookup_outcome (k : Half) (n : Option Node) (s : State) : (writeLookup k n s).outcome = s.outcome := rfl
@[simp] theorem writeLookup_inbox (k : Half) (n : Option Node) (s : State) : (writeLookup k n s).inbox = s.inbox := rfl

end Sys2Proof.Machine
end

