-- ==== Sys2Proof/Laws/Ops.lean ====
section
/-! SUPPORT. One lemma per shared operation that says once everything it can do: later proofs cite these and unfold no operation. -/

namespace Sys2Proof.Machine

/-! ## Byte reads -/

/-- `readByte` is `MemRead(s, i, 1)` read as a byte value (R9). -/
theorem memRead_one (buf : Bytes) (i : Nat) : memRead buf i 1 = (readByte buf i).map (fun b => [b]) := by
  unfold memRead readByte
  by_cases h : i < buf.length
  · rw [if_pos (by omega), List.getElem?_eq_getElem h]
    simp [Except.map, List.take_one, h]
  · rw [if_neg (by omega), List.getElem?_eq_none (by omega)]
    rfl

/-- A read that answers stays inside the buffer and has the length asked for (R36). -/
theorem memRead_ok {buf out : Bytes} {i n : Nat} (h : memRead buf i n = .ok out) :
    i + n ≤ buf.length ∧ out = (buf.drop i).take n ∧ out.length = n := by
  unfold memRead at h
  split at h
  · cases h
    refine ⟨by assumption, rfl, ?_⟩
    rw [List.length_take, List.length_drop]
    omega
  · cases h

theorem readByte_ok {buf : Bytes} {i : Nat} {b : Byte} (h : readByte buf i = .ok b) :
    i < buf.length ∧ buf[i]? = some b := by
  unfold readByte at h
  split at h
  · cases h
    next e => exact ⟨(List.getElem?_eq_some_iff.mp e).1, e⟩
  · cases h

/-- The only stop of a byte read is `Truncated` (R101). -/
theorem readByte_error {buf : Bytes} {i : Nat} {e : Stop} (h : readByte buf i = .error e) :
    e = .raise .truncated := by
  unfold readByte at h
  split at h <;> cases h
  rfl

/-- A step of a decoding that answers: its first part answered, and the rest of it answered on that. -/
theorem bind_ok {α β : Type} {x : Except Stop α} {f : α → Except Stop β} {b : β} (h : (x >>= f) = .ok b) :
    ∃ a, x = .ok a ∧ f a = .ok b := by
  cases x with
  | error e => cases h
  | ok a => exact ⟨a, rfl, h⟩

/-- A step of a decoding that stops: its first part stopped, or the rest of it did. -/
theorem bind_error {α β : Type} {x : Except Stop α} {f : α → Except Stop β} {e : Stop} (h : (x >>= f) = .error e) :
    x = .error e ∨ ∃ a, x = .ok a ∧ f a = .error e := by
  cases x with
  | error e' => cases h; exact .inl rfl
  | ok a => exact .inr ⟨a, rfl, h⟩

/-! ## The steps of one object -/

/-- A tag step that answers: one byte, or two bytes the second of which is legal (R81). -/
theorem decodeTag_ok {buf : Bytes} {pos : Nat} {tag : Half} {c : Bool} {next : Nat}
    (h : decodeTag buf pos = .ok (tag, c, next)) :
    ∃ b0, buf[pos]? = some b0 ∧ c = isConstructed b0 ∧
      ((lowFiveSet b0 = false ∧ tag = oneByteTag b0 ∧ next = pos + 1) ∨
       (lowFiveSet b0 = true ∧ ∃ b1, buf[pos + 1]? = some b1 ∧ lowFiveSet b1 = false ∧
          tag = twoByteTag b0 b1 ∧ next = pos + 2)) := by
  obtain ⟨b0, h0, h⟩ := bind_ok h
  refine ⟨b0, (readByte_ok h0).2, ?_⟩
  split at h
  next set0 =>
    obtain ⟨b1, h1, h⟩ := bind_ok h
    split at h
    · cases h
    next set1 =>
      cases h
      exact ⟨rfl, .inr ⟨set0, b1, (readByte_ok h1).2, by simpa using set1, rfl, rfl⟩⟩
  next set0 =>
    cases h
    exact ⟨rfl, .inl ⟨by simpa using set0, rfl, rfl⟩⟩

/-- A length step that answers moves the cursor by 1, 2 or 3 (R82). -/
theorem decodeLen_ok {buf : Bytes} {pos : Nat} {length : Half} {next : Nat}
    (h : decodeLen buf pos = .ok (length, next)) :
    ∃ l0, buf[pos]? = some l0 ∧
      ((isShortLength l0 = true ∧ length = zext16 l0 ∧ next = pos + 1) ∨
       (l0 = Config.lenOne ∧ ∃ l1, buf[pos + 1]? = some l1 ∧ length = zext16 l1 ∧ next = pos + 2) ∨
       (l0 = Config.lenTwo ∧ ∃ l1 l2, buf[pos + 1]? = some l1 ∧ buf[pos + 2]? = some l2 ∧
          length = bigEndian l1 l2 ∧ next = pos + 3)) := by
  obtain ⟨l0, h0, h⟩ := bind_ok h
  refine ⟨l0, (readByte_ok h0).2, ?_⟩
  split at h
  next short => cases h; exact .inl ⟨short, rfl, rfl⟩
  split at h
  next one =>
    obtain ⟨l1, h1, h⟩ := bind_ok h
    cases h
    exact .inr (.inl ⟨one, l1, (readByte_ok h1).2, rfl, rfl⟩)
  split at h
  next two =>
    obtain ⟨l1, h1, h⟩ := bind_ok h
    obtain ⟨l2, h2, h⟩ := bind_ok h
    cases h
    exact .inr (.inr ⟨two, l1, l2, (readByte_ok h1).2, (readByte_ok h2).2, rfl, rfl⟩)
  · cases h

/-- A value step that answers takes exactly the bytes asked for (R83). -/
theorem takeValue_ok {buf value : Bytes} {pos next : Nat} {length : Half}
    (h : takeValue buf pos length = .ok (value, next)) :
    pos + length.toNat ≤ buf.length ∧ value = (buf.drop pos).take length.toNat ∧
      value.length = length.toNat ∧ next = pos + length.toNat := by
  obtain ⟨v, hv, h⟩ := bind_ok h
  cases h
  obtain ⟨a, b, c⟩ := memRead_ok hv
  exact ⟨a, b, c, rfl⟩

/-- An object that decodes (R84): its three steps answered, and either its value is kept undecoded, with the bytes after it left, or
its value decoded into the children, with what `TAIL` says left. -/
theorem decodeOneWith_ok {children : Bytes → Except Stop Forest} {p : Config.Params} {flag : Bool} {depth : Nat} {buf : Bytes}
    {node : Node} {remainder : Bytes} (h : decodeOneWith children p flag depth buf = .ok (node, remainder)) :
    ∃ c p1 p2 p3, decodeTag buf 0 = .ok (node.tag, c, p1) ∧ decodeLen buf p1 = .ok (node.length, p2) ∧
      takeValue buf p2 node.length = .ok (node.value, p3) ∧
      (((c && flag) = false ∧ node.subs = .nil ∧ remainder = buf.drop p3) ∨
       ((c && flag) = true ∧ tooDeep p depth = false ∧ children node.value = .ok node.subs ∧
          remainder = match p.tail with | .drop => [] | .keep => buf.drop p3)) := by
  obtain ⟨⟨tag, c, p1⟩, h1, h⟩ := bind_ok h
  obtain ⟨⟨length, p2⟩, h2, h⟩ := bind_ok h
  obtain ⟨⟨value, p3⟩, h3, h⟩ := bind_ok h
  dsimp only at h
  split at h
  next rec =>
    split at h
    · cases h
    next shallow =>
      obtain ⟨subs, hs, h⟩ := bind_ok h
      cases h
      exact ⟨c, p1, p2, p3, h1, h2, h3, .inr ⟨rec, by simpa using shallow, hs, rfl⟩⟩
  next rec =>
    cases h
    exact ⟨c, p1, p2, p3, h1, h2, h3, .inl ⟨by simpa using rec, rfl, rfl⟩⟩

/-! ## The operations -/

/-- Either build that is taken: the payload fits and the whole command group is written (R71, R72). -/
theorem build_next {m : Bool} {c i a b : Byte} {d : Bytes} {s t : State} (h : build m c i a b d s = .next t) :
    d.length ≤ Config.payloadMax ∧
      t = finish (.packets (frame m c i a b d)) (writeCommand m c i a b d (frame m c i a b d) s) := by
  unfold build at h
  split at h
  · cases h
    exact ⟨by assumption, rfl⟩
  · cases h

/-- A parse that is taken: a fault below two bytes, else the response group is written (R77). -/
theorem parse_next {raw : Bytes} {s t : State} (h : parse raw s = .next t) :
    (splitReply raw = none ∧ t = raise .tooShortReply s) ∨
    ∃ data sw1 sw2, splitReply raw = some (data, sw1, sw2) ∧
      t = finish (.response data sw1 sw2) (writeResponse data sw1 sw2 s) := by
  unfold parse at h
  split at h
  · cases h
  · split at h
    next e => cases h; exact .inl ⟨e, rfl⟩
    next data sw1 sw2 e => cases h; exact .inr ⟨data, sw1, sw2, e, rfl⟩

/-- A decoding operation that is taken: the fault of the decoding, or the forest group is written (R84, R85). -/
theorem endDecoding_next {s t : State} {decoded : Except Stop (Forest × Bytes × Result)}
    (h : endDecoding s decoded = .next t) :
    (∃ k, decoded = .error (.raise k) ∧ t = raise k s) ∨
    ∃ forest remainder result, decoded = .ok (forest, remainder, result) ∧
      exceeds forest.count s.params.nodeMax = false ∧ t = finish result (writeForest forest remainder s) := by
  unfold endDecoding at h
  split at h
  next k => cases h; exact .inl ⟨k, rfl, rfl⟩
  · cases h
  next forest remainder result =>
    split at h
    · cases h
    next fits => cases h; exact .inr ⟨forest, remainder, result, rfl, by simpa using fits, rfl⟩

/-- A lookup that is taken: a forest is held, and the lookup group alone is written (R91). -/
theorem execTlvFind_next {key : Half} {s t : State} (h : execTlvFind key s = .next t) :
    s.tlv.fv = true ∧
      t = finish (.found (findIn key s.tlv.forest)) (writeLookup key (findIn key s.tlv.forest) s) := by
  unfold execTlvFind at h
  split at h
  · cases h
    exact ⟨by assumption, rfl⟩
  · cases h

/-- A step of the decoder in flight that is taken changes the decoder's hidden state alone (R24, R26). -/
theorem stepDecoder_next {bytes : Bytes} {keep : DecoderWork → DecoderWork} {s t : State}
    (h : stepDecoder bytes keep s = .next t) :
    ∃ d, (s.decoder.getD DecoderWork.opened).pass bytes = some d ∧ t = { s with decoder := some (keep d) } := by
  unfold stepDecoder at h
  split at h
  next d e => cases h; exact ⟨d, e, rfl⟩
  · cases h

/-- An illegal form that is met is fault entry (R104). -/
theorem stepDecoderRaise_next {bytes : Bytes} {kind : FaultKind} {s t : State}
    (h : stepDecoderRaise bytes kind s = .next t) : t = raise kind s := by
  unfold stepDecoderRaise at h
  split at h
  · cases h
    rfl
  · cases h

/-- A step of the framer in flight is always taken and changes the framer's hidden state alone (R24, R26). -/
theorem stepFramer_next {chaining : Bool} {p : Bytes} {s t : State} (h : stepFramer chaining p s = .next t) :
    ∃ w, w.packets = (s.framer.getD FramerWork.opened).packets ++ [p] ∧
      (s.framer.getD FramerWork.opened).k ≤ w.k ∧ t = { s with framer := some w } := by
  unfold stepFramer at h
  cases h
  refine ⟨_, rfl, ?_, rfl⟩
  dsimp only
  split <;> omega

/-- The cursor moves inside what its level holds (R25 (b)). -/
theorem pass_bounded {bytes : Bytes} {d e : DecoderWork} (h : d.pass bytes = some e)
    (bounded : ∀ f ∈ d.frames, f.pos ≤ f.slice.length) : ∀ f ∈ e.frames, f.pos ≤ f.slice.length := by
  unfold DecoderWork.pass at h
  split at h
  · cases h
    simp
  next f outer eq =>
    rw [eq] at bounded
    dsimp only at h
    split at h
    next at_cursor =>
      cases h
      have ends := (List.isPrefixOf_iff_prefix.mp at_cursor).length_le
      have here := bounded f (by simp)
      rw [List.length_drop] at ends
      intro g hg
      rcases List.mem_cons.mp hg with rfl | hg
      · dsimp only
        omega
      · exact bounded g (List.mem_cons_of_mem _ hg)
    · split at h
      next arriving =>
        cases h
        intro g hg
        rcases List.mem_cons.mp hg with rfl | hg
        · simp [arriving]
        · exact bounded g (List.mem_cons_of_mem _ hg)
      · cases h

/-! ## Reset by the host -/

/-- Between operations a reset answers the reset state with the parameters and the host's requests kept; there is no other way it
answers a next state (R111). -/
theorem hostReset_next {s t : State} (h : hostReset s = .next t) :
    s.framer = none ∧ s.decoder = none ∧ t = { State.reset with params := s.params, inbox := s.inbox } := by
  unfold hostReset at h
  split at h
  next hi =>
    cases h
    rw [Bool.and_eq_true, Option.isNone_iff_eq_none, Option.isNone_iff_eq_none] at hi
    exact ⟨hi.1, hi.2, rfl⟩
  · cases h

end Sys2Proof.Machine
end

