-- ==== Sys2Proof/Laws/PerInstr.lean ====
section
/-! SUPPORT. One lemma per instruction: where its bytes stand and how many of them its format fixes (the "format" and "encoding"
columns of spec/opcode_table.json). -/

namespace Sys2Proof.Laws.Carrier

/-- The place an instruction's bytes stand at and the least number of bytes its format fixes, written out from the table. -/
def place : Instr → Space × Nat
  | .frmBuild .. => (.op, 5)
  | .frmBuildx .. => (.op, 5)
  | .rspParse .. => (.op, 1)
  | .rspOkay => (.op, 1)
  | .rspAvail => (.op, 1)
  | .tlvOne .. => (.op, 2)
  | .tlvList .. => (.op, 2)
  | .tlvFind .. => (.op, 3)
  | .pktFinal .. => (.chained true, 5)
  | .pktChain .. => (.chained false, 5)
  | .pktExt1 .. => (.extended, 5)
  | .pktExt3 .. => (.extended, 7)
  | .rpl .. => (.reply, 2)
  | .swOk => (.status, 2)
  | .swMore .. => (.status, 2)
  | .swOther .. => (.status, 2)
  | .tag1 .. => (.tag, 1)
  | .tag2 .. => (.tag, 2)
  | .tagBad .. => (.tag, 2)
  | .lenShort .. => (.len, 1)
  | .lenOne .. => (.len, 2)
  | .lenTwo .. => (.len, 3)
  | .lenBad .. => (.len, 1)
  | .fill00 => (.fill, 1)
  | .fillFF => (.fill, 1)

/-- The encoding stands where the table says and has at least the bytes its format fixes. -/
def Statement (i : Instr) : Prop := (encode i).space = (place i).1 ∧ (place i).2 ≤ (encode i).bytes.length

theorem frmBuild (c i a b : Byte) (d : Bytes) : Statement (.frmBuild c i a b d) := by simp [Statement, place, encode]
theorem frmBuildx (c i a b : Byte) (d : Bytes) : Statement (.frmBuildx c i a b d) := by simp [Statement, place, encode]
theorem rspParse (d : Bytes) : Statement (.rspParse d) := by simp [Statement, place, encode]
theorem rspOkay : Statement .rspOkay := by simp [Statement, place, encode]
theorem rspAvail : Statement .rspAvail := by simp [Statement, place, encode]
theorem tlvOne (d : Bytes) (f : Bool) : Statement (.tlvOne d f) := by simp [Statement, place, encode]
theorem tlvList (d : Bytes) (f : Bool) : Statement (.tlvList d f) := by simp [Statement, place, encode]
theorem tlvFind (k : Half) : Statement (.tlvFind k) := by simp [Statement, place, encode]
theorem pktFinal (c i a b : Byte) (d : Bytes) : Statement (.pktFinal c i a b d) := by
  simp [Statement, place, encode, Machine.shortPacket, Machine.packet]
theorem pktChain (i a b : Byte) (d : Bytes) : Statement (.pktChain i a b d) := by
  simp [Statement, place, encode, Machine.chainPacket, Machine.packet]
theorem pktExt1 (c i a b : Byte) (d : Bytes) : Statement (.pktExt1 c i a b d) := by
  simp [Statement, place, encode, Machine.shortPacket, Machine.packet]
theorem pktExt3 (c i a b : Byte) (d : Bytes) : Statement (.pktExt3 c i a b d) := by
  simp [Statement, place, encode, Machine.longPacket, Machine.packet]
theorem rpl (d : Bytes) (a b : Byte) : Statement (.rpl d a b) := by simp [Statement, place, encode]
theorem swOk : Statement .swOk := by simp [Statement, place, encode]
theorem swMore (n : Byte) : Statement (.swMore n) := by simp [Statement, place, encode]
theorem swOther (a b : Byte) : Statement (.swOther a b) := by simp [Statement, place, encode]
theorem tag1 (b0 : Byte) : Statement (.tag1 b0) := by simp [Statement, place, encode]
theorem tag2 (b0 b1 : Byte) : Statement (.tag2 b0 b1) := by simp [Statement, place, encode]
theorem tagBad (b0 b1 : Byte) : Statement (.tagBad b0 b1) := by simp [Statement, place, encode]
theorem lenShort (l0 : Byte) : Statement (.lenShort l0) := by simp [Statement, place, encode]
theorem lenOne (l1 : Byte) : Statement (.lenOne l1) := by simp [Statement, place, encode]
theorem lenTwo (l1 l2 : Byte) : Statement (.lenTwo l1 l2) := by simp [Statement, place, encode]
theorem lenBad (l0 : Byte) : Statement (.lenBad l0) := by simp [Statement, place, encode]
theorem fill00 : Statement .fill00 := by simp [Statement, place, encode]
theorem fillFF : Statement .fillFF := by simp [Statement, place, encode]

end Sys2Proof.Laws.Carrier
end

