-- ==== Sys2Proof/Tests/Slice0.lean ====
section
/-! SUPPORT. The model's own tests: well-formedness, every constructor's bytes written out from the spec, the table's words, one or two
steps per instruction with results taken from 95_test_vectors.md, and a witness for the hypotheses of every statement. -/

namespace Sys2Proof.Tests

open Sys2Proof Sys2Proof.Machine Sys2Proof.Safety

/-! ## Well-formedness: a good term and an ill-formed one for each check -/

theorem test_wf_build : (Instr.frmBuild 0 0xDA 0 0xC1 []).wellFormed = true := by decide
theorem test_wf_build_refuses (d : Bytes) (h : d.length = 65536) : (Instr.frmBuild 0 0 0 0 d).wellFormed = false := by
  simp [Instr.wellFormed, Config.payloadMax, h]
theorem test_wf_buildx_refuses (d : Bytes) (h : d.length = 65536) : (Instr.frmBuildx 0 0 0 0 d).wellFormed = false := by
  simp [Instr.wellFormed, Config.payloadMax, h]
theorem test_wf_final_refuses : (Instr.pktFinal 0 0 0 0 (List.replicate 255 0)).wellFormed = false := by decide +kernel
theorem test_wf_chain_refuses : (Instr.pktChain 0 0 0 (List.replicate 253 0)).wellFormed = false := by decide +kernel
theorem test_wf_ext1_refuses : (Instr.pktExt1 0 0 0 0 (List.replicate 256 0)).wellFormed = false := by decide +kernel
theorem test_wf_ext3_refuses_short : (Instr.pktExt3 0 0 0 0 (List.replicate 255 0)).wellFormed = false := by decide +kernel
theorem test_wf_ext3_refuses_long (d : Bytes) (h : d.length = 65536) : (Instr.pktExt3 0 0 0 0 d).wellFormed = false := by
  simp [Instr.wellFormed, fitsExt3, Config.payloadMax, h]
theorem test_wf_other_refuses_ok : (Instr.swOther 0x90 0x00).wellFormed = false := by decide
theorem test_wf_other_refuses_more : (Instr.swOther 0x61 0x05).wellFormed = false := by decide
theorem test_wf_tag1_refuses : (Instr.tag1 0x5F).wellFormed = false := by decide
theorem test_wf_tag2_refuses_first : (Instr.tag2 0x5B 0x01).wellFormed = false := by decide
theorem test_wf_tag2_refuses_second : (Instr.tag2 0x5F 0xBF).wellFormed = false := by decide
theorem test_wf_tagbad_refuses : (Instr.tagBad 0x5F 0x20).wellFormed = false := by decide
theorem test_wf_lenshort_refuses : (Instr.lenShort 0x80).wellFormed = false := by decide
theorem test_wf_lenbad_refuses : (Instr.lenBad 0x82).wellFormed = false := by decide

/-! ## Decoding: the bytes of every constructor, written out from the spec's encoding of it (R46 to R66) -/

theorem test_dec_build : decode ⟨.op, [0b00000000, 0x00, 0xDA, 0x01, 0xC1, 0xFE]⟩ = .ok (.frmBuild 0x00 0xDA 0x01 0xC1 [0xFE]) := by decide
theorem test_dec_buildx : decode ⟨.op, [0b00000001, 0x80, 0xDB, 0x02, 0xC3]⟩ = .ok (.frmBuildx 0x80 0xDB 0x02 0xC3 []) := by decide
theorem test_dec_parse : decode ⟨.op, [0b00000010, 0x90, 0x00]⟩ = .ok (.rspParse [0x90, 0x00]) := by decide
theorem test_dec_okay : decode ⟨.op, [0b00000011]⟩ = .ok .rspOkay := by decide
theorem test_dec_avail : decode ⟨.op, [0b00000100]⟩ = .ok .rspAvail := by decide
theorem test_dec_one : decode ⟨.op, [0b00000101, 1, 0x5B, 0x00]⟩ = .ok (.tlvOne [0x5B, 0x00] true) := by decide
theorem test_dec_list : decode ⟨.op, [0b00000110, 0, 0x5B, 0x00]⟩ = .ok (.tlvList [0x5B, 0x00] false) := by decide
theorem test_dec_find : decode ⟨.op, [0b00000111, 0x7F, 0x49]⟩ = .ok (.tlvFind 0x7F49) := by decide
theorem test_dec_final : decode ⟨.chained true, [0x00, 0xDA, 0x01, 0xC1, 0b00000010, 0xFE, 0xFF]⟩ = .ok (.pktFinal 0x00 0xDA 0x01 0xC1 [0xFE, 0xFF]) := by decide
theorem test_dec_chain : decode ⟨.chained false, [0b00010000, 0xDA, 0x01, 0xC1, 0b11111110] ++ List.replicate 254 0x55⟩ = .ok (.pktChain 0xDA 0x01 0xC1 (List.replicate 254 0x55)) := by decide +kernel
theorem test_dec_ext1 : decode ⟨.extended, [0x00, 0xDA, 0x01, 0xC1, 0b00000001, 0x77]⟩ = .ok (.pktExt1 0x00 0xDA 0x01 0xC1 [0x77]) := by decide
theorem test_dec_ext3 : decode ⟨.extended, [0x00, 0xDA, 0x01, 0xC1, 0b00000000, 0b00000001, 0b00000010] ++ List.replicate 258 0x55⟩ = .ok (.pktExt3 0x00 0xDA 0x01 0xC1 (List.replicate 258 0x55)) := by decide +kernel
theorem test_dec_rpl : decode ⟨.reply, [0x01, 0x02, 0x6A, 0x88]⟩ = .ok (.rpl [0x01, 0x02] 0x6A 0x88) := by decide
theorem test_dec_ok : decode ⟨.status, [0b10010000, 0b00000000]⟩ = .ok .swOk := by decide
theorem test_dec_more : decode ⟨.status, [0b01100001, 0x02]⟩ = .ok (.swMore 0x02) := by decide
theorem test_dec_other : decode ⟨.status, [0x69, 0x82]⟩ = .ok (.swOther 0x69 0x82) := by decide
theorem test_dec_tag1 : decode ⟨.tag, [0b01110011]⟩ = .ok (.tag1 0x73) := by decide
theorem test_dec_tag2 : decode ⟨.tag, [0b01011111, 0b11000001]⟩ = .ok (.tag2 0x5F 0xC1) := by decide
theorem test_dec_tagbad : decode ⟨.tag, [0b01011111, 0b00111111]⟩ = .ok (.tagBad 0x5F 0x3F) := by decide
theorem test_dec_short : decode ⟨.len, [0b01111111]⟩ = .ok (.lenShort 0x7F) := by decide
theorem test_dec_lenone : decode ⟨.len, [0b10000001, 0x80]⟩ = .ok (.lenOne 0x80) := by decide
theorem test_dec_lentwo : decode ⟨.len, [0b10000010, 0x01, 0x02]⟩ = .ok (.lenTwo 0x01 0x02) := by decide
theorem test_dec_lenbad : decode ⟨.len, [0b10000000]⟩ = .ok (.lenBad 0x80) := by decide
theorem test_dec_fill00 : decode ⟨.fill, [0b00000000]⟩ = .ok .fill00 := by decide
theorem test_dec_fillFF : decode ⟨.fill, [0b11111111]⟩ = .ok .fillFF := by decide

/-- Bytes that are nothing of their space are rejected by name. -/
theorem test_dec_rejects :
    decode ⟨.op, []⟩ = .error .noBytes ∧ decode ⟨.op, [0x08]⟩ = .error .badSelect ∧
    decode ⟨.op, [0x00, 0x00, 0xDA, 0x01]⟩ = .error .tooShort ∧ decode ⟨.op, [0x03, 0x00]⟩ = .error .tooLong ∧
    decode ⟨.op, [0x05, 0x02, 0x5B, 0x00]⟩ = .error .badFlag ∧
    decode ⟨.chained true, [0x00, 0xDA, 0x01, 0xC1, 0x02, 0xFE]⟩ = .error .badLength ∧
    decode ⟨.fill, [0x01]⟩ = .error .noSuchForm := by decide

/-! ## The table's words -/

theorem test_table_op :
    decodeTableWord 40 0x0000000000 = some (.pktFinal 0 0 0 0 []) ∧ decodeTableWord 16 0x0001 = some (.frmBuildx 0 0 0 0 []) ∧
    decodeTableWord 8 0x02 = some (.rspParse []) ∧ decodeTableWord 8 0x03 = some .rspOkay ∧
    decodeTableWord 8 0x04 = some .rspAvail ∧ decodeTableWord 8 0x05 = some (.tlvOne [] false) ∧
    decodeTableWord 8 0x06 = some (.tlvList [] false) ∧ decodeTableWord 24 0x007307 = some (.tlvFind 0x7300) ∧
    decodeTableWord 16 0x0000 = some (.frmBuild 0 0 0 0 []) := by decide
theorem test_table_packets :
    decodeTableWord 40 0x00DA00C100 = some (.pktFinal 0x00 0xDA 0x00 0xC1 []) ∧
    decodeTableWord 40 0x10DA00C1FE = some (.pktChain 0xDA 0x00 0xC1 (List.replicate 254 0)) ∧
    decodeTableWord 40 0x00DA00C1FF = some (.pktExt1 0x00 0xDA 0x00 0xC1 (List.replicate 255 0)) := by decide +kernel
theorem test_table_ext3 : decodeTableWord 56 0x00DA00C1000100 = some (.pktExt3 0x00 0xDA 0x00 0xC1 (List.replicate 256 0)) := by decide +kernel
theorem test_table_status :
    decodeTableWord 16 0x9000 = some .swOk ∧ decodeTableWord 16 0x6102 = some (.swMore 0x02) ∧
    decodeTableWord 16 0x6982 = some (.swOther 0x69 0x82) := by decide
theorem test_table_fields :
    decodeTableWord 16 0x1F00 = some (.tag2 0x1F 0x00) ∧ decodeTableWord 16 0x1F1F = some (.tagBad 0x1F 0x1F) ∧
    decodeTableWord 8 0x7F = some (.lenShort 0x7F) ∧ decodeTableWord 8 0x81 = some (.lenOne 0) ∧
    decodeTableWord 8 0x82 = some (.lenTwo 0 0) ∧ decodeTableWord 8 0x80 = some (.lenBad 0x80) ∧
    decodeTableWord 8 0x00 = some .fill00 ∧ decodeTableWord 8 0xFF = some .fillFF := by decide
/-- The very next step runs the word placed: SW.MORE with 5 bytes waiting. -/
theorem test_table_step :
    step (State.reset.withFetchWord 16 0x6105) = exec (.swMore 0x05) State.reset := by rfl

/-! ## Steps: results from 95_test_vectors.md -/

/-- Does the step end in a next state with this property? -/
def next (o : Host.Outcome State Fault Refusal) (p : State → Bool) : Bool :=
  match o with
  | .next t => p t
  | _ => false

/-- The parameter `TAIL = KEEP` (R6). -/
def keep : State := { State.reset with params := { Config.defaults with tail := .keep } }
/-- A finite `DEPTH_MAX` (R6). -/
def deep (n : Nat) : State := { State.reset with params := { Config.defaults with depthMax := some n } }
/-- After `RSP.PARSE` of a reply of two bytes. -/
def replied (a b : Byte) : State := { State.reset with rsp := ⟨true, [], 0, a, b⟩ }
/-- A state that holds a forest. -/
def holding (f : Forest) : State := { State.reset with tlv := ⟨true, f, []⟩ }
/-- A decoding in flight, its cursor before byte `pos` of `slice`. -/
def decoding (slice : Bytes) (pos : Nat) : State :=
  { State.reset with decoder := some ⟨[⟨slice, pos, []⟩], 0, false, 0⟩ }
/-- The bytes `i mod 256` for `i` in `0..n` (2.1). -/
def ramp (n : Nat) : Bytes := (List.range n).map (BitVec.ofNat 8)
/-- The forest of table 2.6, rows 1 to 3: `61 {4F [01], 73 {4F [02]}, 4F [03]}` (`KEEP`). -/
def sampleForest : Forest :=
  .cons 0x61 11 [0x4F, 1, 1, 0x73, 3, 0x4F, 1, 2, 0x4F, 1, 3]
    (.cons 0x4F 1 [1] .nil (.cons 0x73 3 [0x4F, 1, 2] (.cons 0x4F 1 [2] .nil .nil) (.cons 0x4F 1 [3] .nil .nil))) .nil

/-- 2.1, L = 6: one packet. -/
theorem test_build_short :
    next (exec (.frmBuild 0x00 0xA4 0x04 0x00 [0xD2, 0x76, 0x00, 0x01, 0x24, 0x01]) State.reset)
      (fun t => t.cmd.pktq == [[0x00, 0xA4, 0x04, 0x00, 0x06, 0xD2, 0x76, 0x00, 0x01, 0x24, 0x01]] && t.cmd.plen == 6) = true := by decide +kernel
/-- 2.1, L = 300: class byte 0x80 is not carried into the chaining packet. -/
theorem test_build_chain :
    next (exec (.frmBuild 0x80 0xDA 0x01 0x02 (ramp 300)) State.reset)
      (fun t => t.cmd.pktq.map (fun p => (p.take 6, p.length)) ==
        [([0x10, 0xDA, 0x01, 0x02, 0xFE, 0x00], 259), ([0x80, 0xDA, 0x01, 0x02, 0x2E, 0xFE], 51)]) = true := by decide +kernel
/-- 2.2, L = 255: still one length byte. -/
theorem test_buildx_one :
    next (exec (.frmBuildx 0x00 0xDA 0x00 0xC1 (ramp 255)) State.reset)
      (fun t => t.cmd.pktq.map (fun p => (p.take 6, p.length)) == [([0x00, 0xDA, 0x00, 0xC1, 0xFF, 0x00], 260)]) = true := by decide +kernel
/-- 2.2, L = 256: the marker and two length bytes. -/
theorem test_buildx_three :
    next (exec (.frmBuildx 0x00 0xDA 0x00 0xC1 (ramp 256)) State.reset)
      (fun t => t.cmd.pktq.map (fun p => (p.take 8, p.length)) == [([0x00, 0xDA, 0x00, 0xC1, 0x00, 0x01, 0x00, 0x00], 263)]) = true := by decide +kernel
/-- 2.3. -/
theorem test_parse :
    next (exec (.rspParse [0x90, 0x00, 0x6A, 0x88]) State.reset) (fun t => t.rsp == ⟨true, [0x90, 0x00], 2, 0x6A, 0x88⟩) = true := by decide
/-- 2.3: a fault keeps the old response. -/
theorem test_parse_short :
    next (exec (.rspParse [0x90]) (replied 0x61 0x02))
      (fun t => t.err == some .tooShortReply && t.rsp == ⟨true, [], 0, 0x61, 0x02⟩) = true := by decide
/-- 2.3: (90, 01) is no success. -/
theorem test_okay :
    next (exec .rspOkay (replied 0x90 0x01)) (fun t => t.outcome == some (.done (.okay false))) = true := by decide
/-- 2.6, last row, for the other queries: refused after reset. -/
theorem test_okay_refused : exec .rspOkay State.reset = .refused .noResponse := by rfl
/-- 2.3: (61, 00) answers `Some(0)`. -/
theorem test_avail :
    next (exec .rspAvail (replied 0x61 0x00)) (fun t => t.outcome == some (.done (.avail (some 0)))) = true := by decide
/-- 2.3: [90 61] has no count. -/
theorem test_avail_order :
    next (exec .rspAvail (replied 0x90 0x61)) (fun t => t.outcome == some (.done (.avail none))) = true := by decide
/-- 2.4: `73 03 C0 01 11 4F 02 AA BB`, `rec=1`, `DROP`. -/
theorem test_one_drop :
    next (exec (.tlvOne [0x73, 0x03, 0xC0, 0x01, 0x11, 0x4F, 0x02, 0xAA, 0xBB] true) State.reset)
      (fun t => t.tlv == ⟨true, .cons 0x73 3 [0xC0, 0x01, 0x11] (.cons 0xC0 1 [0x11] .nil .nil) .nil, []⟩) = true := by decide
/-- 2.4: the same under `KEEP`. -/
theorem test_one_keep :
    next (exec (.tlvOne [0x73, 0x03, 0xC0, 0x01, 0x11, 0x4F, 0x02, 0xAA, 0xBB] true) keep)
      (fun t => t.tlv == ⟨true, .cons 0x73 3 [0xC0, 0x01, 0x11] (.cons 0xC0 1 [0x11] .nil .nil) .nil, [0x4F, 0x02, 0xAA, 0xBB]⟩) = true := by
  decide
/-- 2.5: filler, a two-byte tag with bit 7 of its second byte set, and an 81 length. -/
theorem test_list :
    next (exec (.tlvList [0x00, 0x5F, 0xC1, 0x01, 0x00, 0xFF, 0x5B, 0x81, 0x02, 0xAA, 0xBB] true) State.reset)
      (fun t => t.tlv == ⟨true, .cons 0x5F41 1 [0x00] .nil (.cons 0x5B 2 [0xAA, 0xBB] .nil .nil), []⟩) = true := by decide
/-- 2.4, depth bound: `61 06 62 04 63 02 5B 00` under `DEPTH_MAX` = 2. -/
theorem test_list_depth :
    next (exec (.tlvList [0x61, 0x06, 0x62, 0x04, 0x63, 0x02, 0x5B, 0x00] true) (deep 2))
      (fun t => t.err == some .depthExceeded && t.tlv == State.reset.tlv) = true := by decide
/-- 2.6: an earlier sibling before a deeper match. -/
theorem test_find :
    next (exec (.tlvFind 0x004F) (holding sampleForest))
      (fun t => t.look == ⟨true, 0x4F, true, ⟨0x4F, 1, [1], .nil⟩⟩) = true := by decide
/-- 2.6: not found is a result. -/
theorem test_find_none :
    next (exec (.tlvFind 0x0099) (holding sampleForest)) (fun t => t.look.key == 0x99 && !t.look.hit && t.err == none) = true := by decide
/-- R48, R52: a final packet is five bytes and its slice. -/
theorem test_final :
    next (exec (.pktFinal 0x00 0xDA 0x00 0xC1 [0xFE]) State.reset)
      (fun t => t.framer == some ⟨1, [[0x00, 0xDA, 0x00, 0xC1, 0x01, 0xFE]], [0x00, 0xDA, 0x00, 0xC1, 0x01, 0xFE]⟩) = true := by decide
/-- R49, R25: `k` advances, the packet is 259 bytes. -/
theorem test_chain :
    next (exec (.pktChain 0xDA 0x01 0x02 (ramp 254)) State.reset)
      (fun t => t.framer.any (fun w => w.k == 2 && w.packet.length == 259 && w.packet.take 6 == [0x10, 0xDA, 0x01, 0x02, 0xFE, 0x00])) = true := by decide +kernel
/-- R50: a length byte of 0xFF is legal here. -/
theorem test_ext1 :
    next (exec (.pktExt1 0x00 0xDA 0x00 0xC1 (ramp 255)) State.reset)
      (fun t => t.framer.any (fun w => w.packet.length == 260 && w.packet.take 5 == [0x00, 0xDA, 0x00, 0xC1, 0xFF])) = true := by decide +kernel
/-- R51: `00 01 2C` for 300 bytes. -/
theorem test_ext3 :
    next (exec (.pktExt3 0x00 0xDA 0x00 0xC1 (ramp 300)) State.reset)
      (fun t => t.framer.any (fun w => w.packet.length == 307 && w.packet.take 7 == [0x00, 0xDA, 0x00, 0xC1, 0x00, 0x01, 0x2C])) = true := by decide +kernel
/-- R55. -/
theorem test_rpl :
    next (exec (.rpl [0xAB] 0x61 0x02) State.reset) (fun t => t.rsp == ⟨true, [0xAB], 1, 0x61, 0x02⟩) = true := by decide
/-- R56: `OKAY` alone. -/
theorem test_sw_ok :
    next (exec .swOk State.reset) (fun t => okayFlag t.rsp && !moreFlag t.rsp) = true := by decide
/-- R56: `MORE` and the count. -/
theorem test_sw_more :
    next (exec (.swMore 0xFF) State.reset) (fun t => moreFlag t.rsp && availCount t.rsp == 0xFF && !okayFlag t.rsp) = true := by decide
/-- R56: neither flag. -/
theorem test_sw_other :
    next (exec (.swOther 0x90 0x01) State.reset) (fun t => !okayFlag t.rsp && !moreFlag t.rsp && t.rsp.rv) = true := by decide
/-- R59: 0x73 is constructed. -/
theorem test_tag1 :
    next (exec (.tag1 0x73) (decoding [0x73, 0x00] 0))
      (fun t => t.decoder == some ⟨[⟨[0x73, 0x00], 1, []⟩], 0x0073, true, 0⟩) = true := by decide
/-- R60: bit 7 of the second byte is dropped; 0x5F is primitive. -/
theorem test_tag2 :
    next (exec (.tag2 0x5F 0xC1) (decoding [0x5F, 0xC1, 0x01, 0x00] 0))
      (fun t => t.decoder == some ⟨[⟨[0x5F, 0xC1, 0x01, 0x00], 2, []⟩], 0x5F41, false, 0⟩) = true := by decide
/-- R61: `7F BF` raises. -/
theorem test_tagbad :
    next (exec (.tagBad 0x7F 0xBF) (decoding [0x7F, 0xBF, 0x00] 0))
      (fun t => t.err == some .badTagExtension && t.decoder == none) = true := by decide
/-- R62. -/
theorem test_lenshort :
    next (exec (.lenShort 0x7F) (decoding [0x5B, 0x7F] 1))
      (fun t => t.decoder == some ⟨[⟨[0x5B, 0x7F], 2, []⟩], 0, false, 127⟩) = true := by decide
/-- R63. -/
theorem test_lenone :
    next (exec (.lenOne 0x80) (decoding [0x5B, 0x81, 0x80] 1))
      (fun t => t.decoder == some ⟨[⟨[0x5B, 0x81, 0x80], 3, []⟩], 0, false, 128⟩) = true := by decide
/-- R64: big-endian. -/
theorem test_lentwo :
    next (exec (.lenTwo 0x01 0x00) (decoding [0x5B, 0x82, 0x01, 0x00] 1))
      (fun t => t.decoder == some ⟨[⟨[0x5B, 0x82, 0x01, 0x00], 4, []⟩], 0, false, 256⟩) = true := by decide
/-- R65: `5B 83` raises `BadLength`. -/
theorem test_lenbad :
    next (exec (.lenBad 0x83) (decoding [0x5B, 0x83] 1)) (fun t => t.err == some .badLength) = true := by decide
/-- R66: one byte, nothing else. -/
theorem test_fill00 :
    next (exec .fill00 (decoding [0x00, 0xFF] 0)) (fun t => t.decoder == some ⟨[⟨[0x00, 0xFF], 1, []⟩], 0, false, 0⟩) = true := by decide
/-- R66. -/
theorem test_fillFF :
    next (exec .fillFF (decoding [0x00, 0xFF] 1)) (fun t => t.decoder == some ⟨[⟨[0x00, 0xFF], 2, []⟩], 0, false, 0⟩) = true := by decide

/-- R111: a reset between operations clears the response; after a lone form it is refused. -/
theorem test_reset :
    next (hostReset (replied 0x61 0x02)) (fun t => t == State.reset) = true ∧
    hostReset (decoding [0x5B] 1) = .refused .operationInFlight := ⟨by decide, rfl⟩

/-! ## Witnesses: for every statement with hypotheses, values that meet them together, clause by clause, at the boundaries

A payload of any length exists (`bytesOf`), so the length hypotheses are met at 254, 255, 256, 65535 and 65536. -/

/-- A payload of `n` bytes. -/
def bytesOf (n : Nat) : Bytes := List.replicate n 0x55

theorem bytesOf_length (n : Nat) : (bytesOf n).length = n := List.length_replicate

/-- Bounded capacities (R6). -/
def bounded : State :=
  { State.reset with params := { Config.defaults with rbufMax := some 2, ibufMax := some 4 } }
/-- A bounded node store (R6). -/
def fewNodes : State := { State.reset with params := { Config.defaults with nodeMax := some 1 } }
/-- A state with one pending request. -/
def asked (r : Request) : State := { State.reset with inbox := [r] }

theorem witness_DecodeOfEncodeIsIdentity :
    (Instr.pktFinal 0 0 0 0 (bytesOf 254)).wellFormed = true ∧ (Instr.pktChain 0 0 0 (bytesOf 254)).wellFormed = true ∧
    (Instr.pktExt1 0 0 0 0 (bytesOf 255)).wellFormed = true ∧ (Instr.pktExt3 0 0 0 0 (bytesOf 256)).wellFormed = true ∧
    (Instr.tag2 0xFF 0xE0).wellFormed = true ∧ (Instr.lenBad 0x83).wellFormed = true ∧
    (Instr.swOther 0x90 0x01).wellFormed = true := by decide +kernel
theorem witness_EncodeOfDecodedIsTheRequest : decode ⟨.len, [0x82, 0xFF, 0xFF]⟩ = .ok (.lenTwo 0xFF 0xFF) := by decide
theorem witness_DecodedFormsAreWellFormed :
    (⟨.tag, [0x1F, 0x20]⟩ : Request).space ≠ .op ∧ (⟨.tag, [0x1F, 0x20]⟩ : Request).space ≠ .extended ∧
    decode ⟨.tag, [0x1F, 0x20]⟩ = .ok (.tag2 0x1F 0x20) := by decide
theorem witness_StepRunsTheDecodedInstruction :
    ((asked ⟨.status, [0x90, 0x00]⟩).inbox = [⟨.status, [0x90, 0x00]⟩] ∧ decode ⟨.status, [0x90, 0x00]⟩ = .ok .swOk) ∧
    ((asked ⟨.op, [0xFF]⟩).inbox = [⟨.op, [0xFF]⟩] ∧ decode ⟨.op, [0xFF]⟩ = .error .badSelect) ∧
    State.reset.inbox = [] := by decide
theorem witness_ResetLeavesNoValue :
    (replied 0x61 0x02).framer = none ∧ (replied 0x61 0x02).decoder = none ∧
    Reg.KEY ≠ .CV ∧ Reg.KEY ≠ .RV ∧ Reg.KEY ≠ .FV ∧ Reg.KEY ≠ .HIT ∧ Reg.KEY ≠ .ERR := by decide
theorem witness_ResetInFlightIsRefused :
    (decoding [0x5B] 1).decoder ≠ none ∧ { State.reset with framer := some FramerWork.opened }.framer ≠ none := by decide
/-- A state with its command and forest in use, and a status pair pending. -/
def inUse : State :=
  { holding sampleForest with
    cmd := ⟨true, false, 0, 0xCA, 0, 0x6E, 0, [], 1, [[0, 0xCA, 0, 0x6E, 0]]⟩, inbox := [⟨.status, [0x90, 0x00]⟩] }
theorem inUse_good : GoodState inUse := by
  refine ⟨fun _ => by decide, fun h => ?_, fun _ => by decide, fun h => ?_, fun w h => ?_, fun d h => ?_⟩
  · exact Bool.noConfusion h
  · exact Bool.noConfusion h
  · cases h
  · cases h
/-- The invariant holds in it, and its next step writes the response. -/
theorem witness_StepKeepsTheInvariant : GoodState inUse ∧ ∃ t, step inUse = .next t ∧ t.rsp.rv = true :=
  ⟨inUse_good, _, rfl, rfl⟩
theorem witness_AccessTable :
    (∃ t, exec (.frmBuild 0 0 0 0 []) State.reset = .next t) ∧ isBuild (.frmBuild 0 0 0 0 []) = true ∧
    (∃ t, exec .rspOkay (replied 0x90 0x00) = .next t) ∧ isBuild .rspOkay = false ∧ isReply .rspOkay = false ∧
    isDecoding .rspOkay = false ∧ isQuery .rspOkay = true ∧ (∀ key, Instr.rspOkay ≠ .tlvFind key) :=
  ⟨⟨_, rfl⟩, rfl, ⟨_, rfl⟩, rfl, rfl, rfl, rfl, nofun⟩
theorem witness_AFaultWritesOnlyErr :
    ((∃ t, exec (.rspParse []) State.reset = .next t) ∧ isPacketForm (.rspParse []) = false ∧ isFieldForm (.rspParse []) = false) ∧
    ((∃ t, exec (.lenBad 0x80) State.reset = .next t) ∧ isPacketForm (.lenBad 0x80) = false ∧ isFieldForm (.lenBad 0x80) = false) ∧
    ((∃ t, exec .rspOkay (replied 0x90 0x00) = .next t) ∧ isQuery .rspOkay = true) :=
  ⟨⟨⟨_, rfl⟩, rfl, rfl⟩, ⟨⟨_, rfl⟩, rfl, rfl⟩, ⟨_, rfl⟩, rfl⟩
theorem witness_ProducingOperationsIgnoreTheState :
    (replied 0x61 0x02).params = State.reset.params ∧ isReply (.rspParse [0x90, 0x00]) = true ∧
    ∃ t, exec (.rspParse [0x90, 0x00]) (replied 0x61 0x02) = .next t ∧ t.err = none := ⟨rfl, rfl, _, rfl, rfl⟩
theorem witness_OverCapacityIsRefused :
    65535 < (bytesOf 65536).length ∧ (bounded.params.rbufMax = some 2 ∧ 2 < [0xAB, 0x61, 0x02].length) ∧
    (bounded.params.ibufMax = some 4 ∧ 4 < [0x5B, 3, 1, 2, 3].length) ∧
    ((∀ m, fewNodes.params.ibufMax = some m → [0x5B, 0, 0x4F, 0].length ≤ m) ∧ fewNodes.params.nodeMax = some 1 ∧
      decodeList fewNodes.params true 0 [0x5B, 0, 0x4F, 0] = .ok (.cons 0x5B 0 [] .nil (.cons 0x4F 0 [] .nil .nil)) ∧
      1 < Forest.count (.cons 0x5B 0 [] .nil (.cons 0x4F 0 [] .nil .nil)) ∧
      decodeOne fewNodes.params true 0 [0x73, 2, 0x4F, 0] = .ok (⟨0x73, 2, [0x4F, 0], .cons 0x4F 0 [] .nil .nil⟩, []) ∧
      1 < 1 + Forest.count (.cons 0x4F 0 [] .nil .nil)) :=
  ⟨by rw [bytesOf_length]; decide, ⟨rfl, by decide⟩, ⟨rfl, by decide⟩, nofun, rfl, by decide, by decide, by decide, by decide⟩
theorem witness_BuildWritesTheChainedPackets : (bytesOf 65535).length ≤ 65535 ∧ 65535 < (bytesOf 65536).length := by
  simp only [bytesOf_length]; decide
theorem witness_BuildxWritesOnePacket :
    ((bytesOf 255).length ≤ 65535 ∧ (bytesOf 255).length ≤ 255) ∧ ((bytesOf 256).length ≤ 65535 ∧ 255 < (bytesOf 256).length) ∧
    65535 < (bytesOf 65536).length := by simp only [bytesOf_length]; decide
/-- A build of a payload that fits answers a next state. -/
theorem build_answers (d : Bytes) (h : d.length ≤ 65535) (s : State) :
    ∃ t, exec (.frmBuild 0x80 0xDA 0x01 0x02 d) s = .next t ∧ t.cmd.pktn = (frame false 0x80 0xDA 0x01 0x02 d).length :=
  ⟨_, if_pos h, rfl⟩
/-- The same of the extended build. -/
theorem buildx_answers (d : Bytes) (h : d.length ≤ 65535) (s : State) :
    ∃ t, exec (.frmBuildx 0x80 0xDA 0x01 0x02 d) s = .next t := ⟨_, if_pos h⟩
theorem witness_PayloadSlicesRejoin :
    (∃ t, exec (.frmBuild 0x80 0xDA 0x01 0x02 (bytesOf 254)) State.reset = .next t) ∧ (bytesOf 254).length ≤ 254 ∧
    (∃ t, exec (.frmBuildx 0x80 0xDA 0x01 0x02 (bytesOf 255)) State.reset = .next t) ∧ (bytesOf 255).length ≤ 255 ∧
    (∃ t, exec (.frmBuildx 0x80 0xDA 0x01 0x02 (bytesOf 256)) State.reset = .next t) ∧ 255 < (bytesOf 256).length := by
  have le : ∀ n, n ≤ 65535 → (bytesOf n).length ≤ 65535 := fun n h => by rw [bytesOf_length]; exact h
  obtain ⟨t, h, -⟩ := build_answers (bytesOf 254) (le _ (by decide)) State.reset
  exact ⟨⟨t, h⟩, (bytesOf_length 254).le, buildx_answers _ (le _ (by decide)) _, (bytesOf_length 255).le,
    buildx_answers _ (le _ (by decide)) _, (bytesOf_length 256).ge⟩
theorem witness_ChainedPacketCountAndSizes : (bytesOf 65535).length ≤ 65535 ∧ ([] : Bytes) = [] ∧ bytesOf 1 ≠ [] := by
  refine ⟨?_, rfl, ?_⟩
  · rw [bytesOf_length]
  · decide
theorem witness_BuildsAgreeUpTo254 : (bytesOf 254).length ≤ 254 ∧ 254 < (bytesOf 255).length := by
  simp only [bytesOf_length]; decide
theorem witness_PacketFormsAppendTheirPacket :
    State.reset.framer.getD ⟨1, [], []⟩ = ⟨1, [], []⟩ ∧ (bytesOf 254).length ≤ 254 ∧ 254 < (bytesOf 255).length ∧
    (bytesOf 254).length = 254 ∧ (bytesOf 253).length ≠ 254 ∧ (bytesOf 255).length ≤ 255 ∧ 255 < (bytesOf 256).length ∧
    (255 < (bytesOf 65535).length ∧ (bytesOf 65535).length ≤ 65535) ∧ 65535 < (bytesOf 65536).length := by
  simp only [bytesOf_length]; decide
theorem ramp_length (n : Nat) : (ramp n).length = n := by simp [ramp]
theorem witness_PacketFormsWriteTheBuild :
    State.reset.framer = none ∧ ∃ t, exec (.frmBuild 0x80 0xDA 0x01 0x02 (ramp 300)) State.reset = .next t := by
  obtain ⟨t, h, -⟩ := build_answers (ramp 300) (by rw [ramp_length]; decide) State.reset
  exact ⟨rfl, t, h⟩
theorem witness_ParseSplitsTheReply :
    (∀ n, bounded.params.rbufMax = some n → [0x90, 0x00].length ≤ n) ∧ 2 ≤ [0x90, 0x00].length ∧ [0x90].length < 2 :=
  ⟨fun n h => by cases h; decide, by decide, by decide⟩
theorem witness_TooShortReplyExactly :
    (∀ n, bounded.params.rbufMax = some n → [0x90].length ≤ n) ∧ [0x90].length < 2 ∧ (∃ t, exec (.rspParse [0x90]) State.reset = .next t) ∧
    ((∀ raw, Instr.swOk ≠ .rspParse raw) ∧ errCode State.reset.err ≠ 1 ∧ ∃ t, exec .swOk State.reset = .next t) :=
  ⟨fun n h => by cases h; decide, by decide, ⟨_, rfl⟩, nofun, by decide, _, rfl⟩
theorem witness_OkayAnswersTheStatus : (replied 0x90 0x00).rsp.rv = true ∧ State.reset.rsp.rv = false := by decide
theorem witness_AvailAnswersTheCount : (replied 0x61 0x00).rsp.rv = true ∧ State.reset.rsp.rv = false := by decide
theorem witness_OkayAndMoreNeverBoth :
    (∃ t, exec .rspOkay (replied 0x61 0x02) = .next t) ∧
    ∃ u, exec .rspAvail (replied 0x61 0x02) = .next u ∧ u.outcome = some (.done (.avail (some 2))) := ⟨⟨_, rfl⟩, _, rfl, rfl⟩
theorem witness_ReplyFormsWriteTheResponse :
    (∀ m, bounded.params.rbufMax = some m → ([] : Bytes).length + 2 ≤ m) ∧
    (¬ ((0x90 : Byte) = 0x90 ∧ (0x01 : Byte) = 0x00) ∧ (0x90 : Byte) ≠ 0x61) ∧
    (((0x61 : Byte) = 0x90 ∧ (0x00 : Byte) = 0x00) ∨ (0x61 : Byte) = 0x61) :=
  ⟨fun m h => by cases h; decide, by decide, by decide⟩
theorem witness_TagStep :
    ([] : Bytes)[0]? = none ∧
    ([0x5E] : Bytes)[0]? = some 0x5E ∧ (0x5E : Byte).toNat % 32 ≠ 31 ∧
    ([0x1F] : Bytes)[0]? = some 0x1F ∧ (0x1F : Byte).toNat % 32 = 31 ∧ ([0x1F] : Bytes)[0 + 1]? = none ∧
    ([0x1F, 0xBF] : Bytes)[0 + 1]? = some 0xBF ∧ (0xBF : Byte).toNat % 32 = 31 ∧
    ([0x1F, 0x20] : Bytes)[0 + 1]? = some 0x20 ∧ (0x20 : Byte).toNat % 32 ≠ 31 := by decide
theorem witness_LengthStep :
    ([0x7F] : Bytes)[0]? = some 0x7F ∧ (0x7F : Byte).toNat < 0x80 ∧
    ([0x81, 0x00] : Bytes)[0]? = some 0x81 ∧ ([0x81, 0x00] : Bytes)[0 + 1]? = some 0x00 ∧ ([0x81] : Bytes)[0 + 1]? = none ∧
    ([0x82, 0xFF] : Bytes)[0]? = some 0x82 ∧ ([0x82, 0xFF] : Bytes)[0 + 2]? = none ∧
    ([0x82, 0xFF, 0x01] : Bytes)[0 + 1]? = some 0xFF ∧ ([0x82, 0xFF, 0x01] : Bytes)[0 + 2]? = some 0x01 ∧
    ([0x80] : Bytes)[0]? = some 0x80 ∧ (0x80 : Byte).toNat = 0x80 ∧ 0x83 ≤ (0x83 : Byte).toNat := by decide
theorem witness_ValueStep :
    2 ≤ [0x5B, 1, 0xAA].length ∧
    ([0x5B, 1, 0xAA] = [0x5B, 1] ++ [0xAA] ++ ([] : Bytes) ∧ ([0x5B, 1] : Bytes).length = 2 ∧ ([0xAA] : Bytes).length = (1 : Half).toNat) ∧
    [0x5B, 1, 0xAA].length - 2 < (2 : Half).toNat := by decide
theorem witness_ObjectDecodes :
    decodeTag [0x73] 0 = .ok (0x73, true, 1) ∧ decodeTag [0x5F, 0xC1] 0 = .ok (0x5F41, false, 2) ∧
    decodeLen [0x02] 0 = .ok (2, 1) ∧ ([0xC0, 0x00] : Bytes).length = (2 : Half).toNat ∧
    ((∀ m, State.reset.params.depthMax = some m → 0 + 1 ≤ m) ∧
      decodeList State.reset.params true 1 [0xC0, 0x00] = .ok (.cons 0xC0 0 [] .nil .nil)) ∧
    decodeList State.reset.params true 1 [0xC0, 0x83] = .error (.raise .badLength) ∧
    (∀ m, (deep 1).params.depthMax = some m → 0 + 1 ≤ m) ∧ (∃ m, (deep 0).params.depthMax = some m ∧ m < 0 + 1) :=
  ⟨by decide, by decide, by decide, by decide, ⟨nofun, by decide⟩, by decide, fun m h => by cases h; decide, 0, rfl, by decide⟩
theorem witness_ForestDecoderMeetsThePseudocode :
    ((0x00 : Byte) = 0x00 ∨ (0x00 : Byte) = 0xFF) ∧ ((0xFF : Byte) = 0x00 ∨ (0xFF : Byte) = 0xFF) ∧
    ((0xFE : Byte) ≠ 0x00 ∧ (0xFE : Byte) ≠ 0xFF ∧
      decodeOne Config.defaults true 0 [0x5B, 0x83] = .error (.raise .badLength) ∧
      decodeOne Config.defaults true 0 [0x5B, 0x00, 0x4F, 0x83] = .ok (⟨0x5B, 0, [], .nil⟩, [0x4F, 0x83]) ∧
      decodeList Config.defaults true 0 [0x4F, 0x83] = .error (.raise .badLength) ∧
      decodeOne Config.defaults true 0 [0x5B, 0x00, 0x00] = .ok (⟨0x5B, 0, [], .nil⟩, [0x00]) ∧
      decodeList Config.defaults true 0 [0x00] = .ok .nil) := by decide
theorem witness_TlvOneWritesTheNode :
    (∀ n, bounded.params.ibufMax = some n → [0x5B, 0x01, 0xAA, 0x77].length ≤ n) ∧
    decodeOne bounded.params true 0 [0x5B, 0x01, 0xAA, 0x77] = .ok (⟨0x5B, 1, [0xAA], .nil⟩, [0x77]) ∧
    (∀ n, fewNodes.params.nodeMax = some n → 1 + Forest.nil.count ≤ n) ∧
    decodeOne bounded.params true 0 [0x5B, 0x83] = .error (.raise .badLength) :=
  ⟨fun n h => by cases h; decide, by decide, fun n h => by cases h; decide, by decide⟩
theorem witness_TlvListWritesTheForest :
    (∀ n, bounded.params.ibufMax = some n → [0x00, 0x5B, 0x01, 0xAA].length ≤ n) ∧
    decodeList bounded.params true 0 [0x00, 0x5B, 0x01, 0xAA] = .ok (.cons 0x5B 1 [0xAA] .nil .nil) ∧
    (∀ n, fewNodes.params.nodeMax = some n → (Forest.cons 0x5B 1 [0xAA] .nil .nil).count ≤ n) ∧
    decodeList bounded.params true 0 [0x5B, 0x00, 0x5F] = .error (.raise .truncated) :=
  ⟨fun n h => by cases h; decide, by decide, fun n h => by cases h; decide, by decide⟩
theorem witness_PrimitiveObjectsDecode :
    State.reset.params.ibufMax = none ∧ State.reset.params.nodeMax = none ∧
    (∀ o ∈ [((0x5B : Byte), bytesOf 127), (0xC0, [])],
      o.1.toNat % 32 ≠ 31 ∧ o.1.getLsbD 5 = false ∧ o.1 ≠ 0x00 ∧ o.2.length ≤ 127) ∧
    ((0x00 : Byte).toNat % 32 ≠ 31 ∧ (0x00 : Byte).getLsbD 5 = false ∧ (bytesOf 127).length ≤ 127) := by decide +kernel
/-- A tree with a constructed object before its sibling, and a two-byte tag. -/
theorem witness_TreesDecodeFromTheirBytes :
    keep.params.tail = .keep ∧ keep.params.depthMax = none ∧ isWireTree sampleForest = true ∧
    isWireTree (.cons 0x7F49 2 [0x86, 0x00] (.cons 0x86 0 [] .nil .nil) (.cons 0x5B 0 [] .nil .nil)) = true := by decide
theorem witness_IllegalBytesFaultWhateverFollows :
    ((0x5F : Byte).toNat % 32 = 31 ∧ (0x3F : Byte).toNat % 32 = 31 ∧ (0x5F : Byte) ≠ 0xFF) ∧
    ((0x5B : Byte).toNat % 32 ≠ 31 ∧ (0x80 : Byte).toNat = 0x80 ∧ 0x83 ≤ (0x83 : Byte).toNat ∧ (0x5B : Byte) ≠ 0x00) ∧
    (0x52 : Byte).toNat % 32 ≠ 31 := by decide
theorem witness_StepFaultIsTheObjectsFault :
    decodeTag [0x5F] 0 = .error (.raise .truncated) ∧
    (decodeTag [0x5F, 0x52, 0x83] 0 = .ok (0x5F52, false, 2) ∧ decodeLen [0x5F, 0x52, 0x83] 2 = .error (.raise .badLength)) ∧
    (decodeTag [0x5B, 0x02, 0xAA] 0 = .ok (0x5B, false, 1) ∧ decodeLen [0x5B, 0x02, 0xAA] 1 = .ok (2, 2) ∧
      takeValue [0x5B, 0x02, 0xAA] 2 2 = .error (.raise .truncated)) ∧
    ([0x5B, 0x02, 0xAA] : Bytes) ≠ [] ∧ ([0x5B, 0x02, 0xAA] : Bytes).head? ≠ some 0x00 ∧
    ([0x5B, 0x02, 0xAA] : Bytes).head? ≠ some 0xFF := by decide
theorem witness_ShortBuffersAndFillerAlone :
    (∀ b ∈ ([0x00, 0xFF, 0x00] : Bytes), b = 0x00 ∨ b = 0xFF) ∧ ((0x5F : Byte).toNat % 32 = 31 ∧ (0x5F : Byte) ≠ 0xFF) ∧
    ((0x5B : Byte).toNat % 32 ≠ 31 ∧ (0x52 : Byte).toNat % 32 ≠ 31) ∧
    ([0x5F, 0x52] : Bytes).head? ≠ some 0x00 ∧ ([0x5F, 0x52] : Bytes).head? ≠ some 0xFF ∧
    ((0x7F : Byte).toNat < 0x80 ∧ (bytesOf 126).length < (0x7F : Byte).toNat) ∧ (bytesOf 254).length < (0xFF : Byte).toNat ∧
    (bytesOf 255).length < (0x01 : Byte).toNat * 256 + (0x00 : Byte).toNat := by decide +kernel
theorem witness_FillerBetweenObjectsIsSkipped :
    (∀ b ∈ ([0x00, 0xFF] : Bytes), b = 0x00 ∨ b = 0xFF) ∧
    decodeList Config.defaults true 0 [0x5B, 0x01, 0xAA] = .ok (.cons 0x5B 1 [0xAA] .nil .nil) := by decide
theorem witness_DecodedNodesAreWellFormed :
    decodeList Config.defaults false 0 [0x73, 0x02, 0xC0, 0x00] = .ok (.cons 0x73 2 [0xC0, 0x00] .nil .nil) := by decide
theorem witness_ChildrenAreTheValueDecoded :
    keep.params.depthMax = none ∧ decodeList keep.params true 0 (wireBytes sampleForest) = .ok sampleForest ∧
    (⟨0x73, 3, [0x4F, 1, 2], .cons 0x4F 1 [2] .nil .nil⟩ : Node) ∈ sampleForest.preorder ∧ tagConstructed 0x73 = true := by decide
/-- The bounds are reached: one node of two bytes. -/
theorem witness_NodeAndLevelBounds : decodeList Config.defaults true 0 [0x5B, 0x00] = .ok (.cons 0x5B 0 [] .nil .nil) := by decide
theorem witness_DepthBound :
    ((deep 1).params.depthMax = some 1 ∧
      decodeList (deep 1).params true 0 [0x61, 0x02, 0x5B, 0x00] = .ok (.cons 0x61 2 [0x5B, 0x00] (.cons 0x5B 0 [] .nil .nil) .nil)) ∧
    State.reset.params.depthMax = none ∧ ((deep 2).params.depthMax = some 2 ∧ [0x61, 0x02, 0x5B, 0x00].length / 2 ≤ 2) := by decide
theorem witness_DropEndsAtTheConstructedObject :
    State.reset.params.tail = .drop ∧
    decodeList State.reset.params true 0 [0x5B, 0x00, 0x73, 0x00, 0x4F, 0x00] =
      .ok (.cons 0x5B 0 [] .nil (.cons 0x73 0 [] .nil .nil)) := by decide
theorem witness_KeptRecursiveDecodingIsFlatDecoding :
    keep.params.tail = .keep ∧ decodeList keep.params true 0 (wireBytes sampleForest) = .ok sampleForest := by decide
theorem witness_FindWritesKeyHitFound : (holding sampleForest).tlv.fv = true ∧ State.reset.tlv.fv = false := by decide
theorem witness_UnproducibleKeyIsNeverFound :
    decodeList Config.defaults true 0 [0x5F, 0xC1, 0x01, 0x07] = .ok (.cons 0x5F41 1 [0x07] .nil .nil) ∧
    tagProducible 0x5FC1 = false := by decide
theorem witness_FieldFormsRunFromIdle :
    State.reset.decoder = none ∧ (0x5E : Byte).toNat % 32 ≠ 31 ∧ ((0x1F : Byte).toNat % 32 = 31 ∧ (0xE0 : Byte).toNat % 32 ≠ 31) ∧
    (0x7F : Byte).toNat < 0x80 := by decide
theorem witness_FieldFormsMoveTheCursor :
    isFieldForm (.lenOne 0x05) = true ∧ (Instr.lenOne 0x05).wellFormed = true ∧
    (∃ d, { State.reset with decoder := some DecoderWork.opened }.decoder = some d ∧ d.frames = []) ∧
    (∃ d, (decoding [0x5B, 0x81, 0x05] 1).decoder = some d ∧ ∃ f, d.frames = [f] ∧
      ∃ after, f.slice.drop f.pos = (encode (.lenOne 0x05)).bytes ++ after) ∧
    (∃ d, (decoding [0x5B] 1).decoder = some d ∧ ∃ f, d.frames = [f] ∧ f.pos = f.slice.length) ∧
    (∃ d, (decoding [0x5B, 0x05] 1).decoder = some d ∧ ∃ f, d.frames = [f] ∧
      (¬ ∃ after, f.slice.drop f.pos = (encode (.lenOne 0x05)).bytes ++ after) ∧ f.pos ≠ f.slice.length) :=
  ⟨rfl, rfl, ⟨_, rfl, rfl⟩, ⟨_, rfl, _, rfl, [], rfl⟩, ⟨_, rfl, _, rfl, rfl⟩, _, rfl, _, rfl, by simp [encode], by decide⟩
theorem witness_FieldFormsAgreeWithTheSteps :
    (∃ d, (decoding [0x5F, 0xC1] 0).decoder = some d ∧ ∃ f, d.frames = [f] ∧ decodeTag f.slice f.pos = .ok (0x5F41, false, 2)) ∧
    (∃ d, (decoding [0x5B, 0x82, 0x01, 0x00] 1).decoder = some d ∧ ∃ f, d.frames = [f] ∧ decodeLen f.slice f.pos = .ok (256, 4)) :=
  ⟨⟨_, rfl, _, rfl, by decide⟩, _, rfl, _, rfl, by decide⟩
theorem witness_IllegalFormsRaise :
    ((0x7F : Byte).toNat % 32 = 31 ∧ (0xBF : Byte).toNat % 32 = 31 ∧ AtCursor State.reset [0x7F, 0xBF]) ∧
    ((0x80 : Byte).toNat = 0x80 ∧ 0x83 ≤ (0x83 : Byte).toNat ∧ AtCursor State.reset [0x83] ∧ AtCursor (decoding [0x5B, 0x83] 1) [0x83]) :=
  ⟨⟨by decide, by decide, nofun⟩, by decide, by decide, nofun,
    fun d f outer hd hf => by cases hd; cases hf; exact .inr ⟨[], rfl⟩⟩
theorem witness_NoFormIsTakenForAnother :
    (0x5F : Byte).toNat % 32 = 31 ∧ ((0x5B : Byte).toNat % 32 ≠ 31 ∨ (0x20 : Byte).toNat % 32 = 31) ∧
    ((0x5F : Byte).toNat % 32 ≠ 31 ∨ (0x20 : Byte).toNat % 32 ≠ 31) ∧ 0x80 ≤ (0x80 : Byte).toNat ∧
    ((0x7F : Byte).toNat < 0x80 ∨ (0x7F : Byte) = 0x81 ∨ (0x7F : Byte) = 0x82) := by decide
/-- A state in which every group holds a value. -/
def allHeld : State :=
  { inUse with rsp := ⟨true, [0xAB], 1, 0x61, 0x02⟩, look := ⟨true, 0x4F, true, ⟨0x4F, 1, [1], .nil⟩⟩ }
theorem witness_HostReadsNeedTheValidBit :
    (allHeld.cmd.cv = true ∧ allHeld.rsp.rv = true ∧ allHeld.tlv.fv = true ∧ allHeld.look.hit = true) ∧
    State.reset.cmd.cv = false ∧ State.reset.rsp.rv = false ∧ State.reset.tlv.fv = false ∧ State.reset.look.hit = false := by decide
theorem witness_KeyReadsNeedALookup :
    (∃ t, exec (.tlvFind 0x4F) (holding sampleForest) = .next t) ∧
    (∀ key, Instr.swOk ≠ .tlvFind key) ∧ ∃ t, exec .swOk allHeld = .next t := ⟨⟨_, rfl⟩, nofun, _, rfl⟩
theorem witness_XferParsesOnlyTheLastReply :
    ∃ t, exec (if false then .frmBuildx 0x80 0xDA 0x01 0x02 (ramp 300) else .frmBuild 0x80 0xDA 0x01 0x02 (ramp 300)) State.reset = .next t ∧
      [[0x6A, 0x80]].length + 1 = t.cmd.pktn := by
  obtain ⟨t, h, hn⟩ := build_answers (ramp 300) (by rw [ramp_length]; decide) State.reset
  have two : (frame false 0x80 0xDA 0x01 0x02 (ramp 300)).length = 2 := by decide +kernel
  refine ⟨t, h, ?_⟩
  rw [hn, two]
  rfl
theorem witness_XferEndsAtATransportFailure :
    ∃ t, exec (if true then .frmBuildx 0x80 0xDA 0x01 0x02 [0xAA] else .frmBuild 0x80 0xDA 0x01 0x02 [0xAA]) State.reset = .next t ∧
      ([] : List Bytes).length < t.cmd.pktn := ⟨_, rfl, by decide⟩

end Sys2Proof.Tests
end

section
/-! Wire arithmetic: what the bit operations of the wire formats are as numbers (R33, R58 to R65). -/

namespace Sys2Proof.Proofs

open Sys2Proof.Machine Sys2Proof.Safety

@[simp] theorem zext16_toNat (b : Byte) : (zext16 b).toNat = b.toNat := by
  have := b.isLt
  rw [zext16, BitVec.toNat_setWidth, Nat.mod_eq_of_lt (by omega)]

@[simp] theorem lowByte_toNat (n : Nat) : (lowByte n).toNat = n % 256 := by simp [lowByte]

@[simp] theorem highByte_toNat (n : Nat) : (highByte n).toNat = n / 256 % 256 := by simp [highByte]

/-- A byte shifted up by eight and a byte below it (R33). -/
theorem shifted_or_toNat (hi lo : Byte) : ((zext16 hi <<< 8) ||| zext16 lo).toNat = hi.toNat * 256 + lo.toNat := by
  have hhi := hi.isLt
  have hlo := lo.isLt
  rw [BitVec.toNat_or, BitVec.toNat_shiftLeft, zext16_toNat, zext16_toNat, Nat.shiftLeft_eq,
    Nat.mod_eq_of_lt (by omega), ← Nat.shiftLeft_eq, ← Nat.shiftLeft_add_eq_or_of_lt hlo, Nat.shiftLeft_eq]

@[simp] theorem bigEndian_toNat (hi lo : Byte) : (bigEndian hi lo).toNat = hi.toNat * 256 + lo.toNat :=
  shifted_or_toNat hi lo

@[simp] theorem oneByteTag_toNat (b0 : Byte) : (oneByteTag b0).toNat = b0.toNat := zext16_toNat b0

/-- Bit 7 of the second tag byte is dropped (R60). -/
@[simp] theorem twoByteTag_toNat (b0 b1 : Byte) : (twoByteTag b0 b1).toNat = b0.toNat * 256 + b1.toNat % 128 := by
  have mask : (b1 &&& Config.tag2Mask).toNat = b1.toNat % 128 := by
    simpa using Nat.and_two_pow_sub_one_eq_mod b1.toNat 7
  rw [twoByteTag, shifted_or_toNat, mask]

theorem lowFiveSet_iff (b : Byte) : lowFiveSet b = true ↔ b.toNat % 32 = 31 := by
  have mask : (b &&& Config.tagExt).toNat = b.toNat % 32 := by
    simpa using Nat.and_two_pow_sub_one_eq_mod b.toNat 5
  rw [lowFiveSet, beq_iff_eq, ← BitVec.toNat_inj, mask]
  rfl

theorem lowFiveSet_eq_false_iff (b : Byte) : lowFiveSet b = false ↔ b.toNat % 32 ≠ 31 := by
  rw [← Bool.not_eq_true, lowFiveSet_iff]

/-- One bit of a word as a number. -/
theorem getLsbD_eq_decide {w : Nat} (x : BitVec w) (i : Nat) : x.getLsbD i = decide (x.toNat / 2 ^ i % 2 = 1) := by
  rw [← BitVec.testBit_toNat, Nat.testBit_eq_decide_div_mod_eq]

/-- The constructed flag is bit 5 of the first tag byte (R58). -/
theorem isConstructed_eq_getLsbD (b0 : Byte) : isConstructed b0 = b0.getLsbD 5 := by
  have mask : (b0 &&& Config.tagCons).toNat = (b0.getLsbD 5).toNat * 32 := by
    rw [← BitVec.testBit_toNat]
    exact Nat.and_two_pow b0.toNat 5
  rw [isConstructed, Bool.eq_iff_iff, beq_iff_eq, ← BitVec.toNat_inj, mask]
  cases b0.getLsbD 5 <;> decide

/-- The producible tags as numbers (R67 (d)). -/
theorem tagProducible_iff (t : Half) :
    tagProducible t = true ↔
      t.toNat % 32 ≠ 31 ∧ (255 < t.toNat → t.toNat / 256 % 32 = 31 ∧ t.toNat % 256 < 128) := by
  have low : (t.setWidth 8).toNat = t.toNat % 256 := BitVec.toNat_setWidth 8 t
  have high : ((t >>> 8).setWidth 8).toNat = t.toNat / 256 := by
    have := t.isLt
    rw [BitVec.toNat_setWidth, BitVec.toNat_ushiftRight, Nat.shiftRight_eq_div_pow]
    omega
  unfold tagProducible
  split
  · rw [Bool.not_eq_true', lowFiveSet_eq_false_iff, low]
    omega
  · rw [Bool.and_eq_true, Bool.and_eq_true, Bool.not_eq_true', Bool.not_eq_true', lowFiveSet_iff,
      lowFiveSet_eq_false_iff, low, high, getLsbD_eq_decide, decide_eq_false_iff_not]
    omega

/-! ## Tags: what the tag step makes of the bytes, and the bytes that carry a tag -/

theorem tagProducible_oneByteTag {b0 : Byte} (h : lowFiveSet b0 = false) : tagProducible (oneByteTag b0) = true := by
  have := b0.isLt
  rw [lowFiveSet_eq_false_iff] at h
  rw [tagProducible_iff, oneByteTag_toNat]
  omega

theorem tagProducible_twoByteTag {b0 b1 : Byte} (h0 : lowFiveSet b0 = true) (h1 : lowFiveSet b1 = false) :
    tagProducible (twoByteTag b0 b1) = true := by
  rw [lowFiveSet_iff] at h0
  rw [lowFiveSet_eq_false_iff] at h1
  rw [tagProducible_iff, twoByteTag_toNat]
  omega

theorem tagConstructed_oneByteTag (b0 : Byte) : tagConstructed (oneByteTag b0) = isConstructed b0 := by
  have := b0.isLt
  rw [tagConstructed, if_neg (by simp; omega), isConstructed_eq_getLsbD, getLsbD_eq_decide, getLsbD_eq_decide,
    oneByteTag_toNat]

theorem tagConstructed_twoByteTag {b0 : Byte} (b1 : Byte) (h0 : lowFiveSet b0 = true) :
    tagConstructed (twoByteTag b0 b1) = isConstructed b0 := by
  rw [lowFiveSet_iff] at h0
  rw [tagConstructed, if_pos (by simp; omega), isConstructed_eq_getLsbD, getLsbD_eq_decide, getLsbD_eq_decide,
    twoByteTag_toNat, decide_eq_decide]
  omega

/-- The tag field of a producible tag of one byte is that byte, and it is read as that tag (R59). -/
theorem tagField_of_le {t : Half} (good : tagProducible t = true) (short : t.toNat ≤ 255) :
    tagField t = [lowByte t.toNat] ∧ lowFiveSet (lowByte t.toNat) = false ∧ oneByteTag (lowByte t.toNat) = t := by
  rw [tagProducible_iff] at good
  refine ⟨if_pos short, ?_, BitVec.eq_of_toNat_eq ?_⟩
  · rw [lowFiveSet_eq_false_iff, lowByte_toNat]
    omega
  · rw [oneByteTag_toNat, lowByte_toNat]
    omega

/-- The tag field of a producible tag of two bytes is those bytes, and they are read as that tag (R60). -/
theorem tagField_of_lt {t : Half} (good : tagProducible t = true) (long : 255 < t.toNat) :
    tagField t = [highByte t.toNat, lowByte t.toNat] ∧ lowFiveSet (highByte t.toNat) = true ∧
      lowFiveSet (lowByte t.toNat) = false ∧ twoByteTag (highByte t.toNat) (lowByte t.toNat) = t := by
  have := t.isLt
  rw [tagProducible_iff] at good
  refine ⟨if_neg (by omega), ?_, ?_, BitVec.eq_of_toNat_eq ?_⟩
  · rw [lowFiveSet_iff, highByte_toNat]
    omega
  · rw [lowFiveSet_eq_false_iff, lowByte_toNat]
    omega
  · rw [twoByteTag_toNat, highByte_toNat, lowByte_toNat]
    omega

theorem tagField_ne_nil (t : Half) : tagField t ≠ [] := by
  unfold tagField
  split <;> simp

end Sys2Proof.Proofs
end

section
/-! The steps of one object (R81 to R84): where they leave the cursor, what they answer on fields written out, and that an object's
decoding asks for the children of nothing but its own value. -/

namespace Sys2Proof.Proofs

open Sys2Proof.Machine Sys2Proof.Safety

/-! ## The cursor -/

/-- The tag step moves the cursor on, answers a producible tag (R67 (d)), and the constructed flag is the one the tag value carries (R19). -/
theorem decodeTag_good {buf : Bytes} {pos next : Nat} {tag : Half} {c : Bool} (h : decodeTag buf pos = .ok (tag, c, next)) :
    pos < next ∧ tagProducible tag = true ∧ c = tagConstructed tag := by
  obtain ⟨b0, -, rfl, ⟨one, rfl, rfl⟩ | ⟨two, b1, -, good, rfl, rfl⟩⟩ := decodeTag_ok h
  · exact ⟨by omega, tagProducible_oneByteTag one, (tagConstructed_oneByteTag b0).symm⟩
  · exact ⟨by omega, tagProducible_twoByteTag two good, (tagConstructed_twoByteTag b1 two).symm⟩

/-- The length step moves the cursor on. -/
theorem decodeLen_lt {buf : Bytes} {pos next : Nat} {length : Half} (h : decodeLen buf pos = .ok (length, next)) :
    pos < next := by
  obtain ⟨l0, -, ⟨-, -, rfl⟩ | ⟨-, l1, -, -, rfl⟩ | ⟨-, l1, l2, -, -, -, rfl⟩⟩ := decodeLen_ok h <;> omega

/-- A value that an object's three steps answer is shorter than the buffer by the two bytes a tag and a length take at least, and so is
what is left after it (R86). -/
theorem steps_shorter {buf value : Bytes} {p1 p2 p3 : Nat} {tag length : Half} {c : Bool}
    (tagStep : decodeTag buf 0 = .ok (tag, c, p1)) (lenStep : decodeLen buf p1 = .ok (length, p2))
    (valueStep : takeValue buf p2 length = .ok (value, p3)) :
    value.length = length.toNat ∧ value.length + 2 + (buf.drop p3).length ≤ buf.length := by
  obtain ⟨past_tag, -, -⟩ := decodeTag_good tagStep
  have past_len := decodeLen_lt lenStep
  obtain ⟨within, -, exact_length, rfl⟩ := takeValue_ok valueStep
  refine ⟨exact_length, ?_⟩
  rw [List.length_drop]
  omega

/-! ## Fields written out -/

theorem readByte_append (front buf : Bytes) (i : Nat) : readByte (front ++ buf) (front.length + i) = readByte buf i := by
  unfold readByte
  rw [List.getElem?_append_right (by omega), Nat.add_sub_cancel_left]

@[simp] theorem readByte_cons_zero (b : Byte) (rest : Bytes) : readByte (b :: rest) 0 = .ok b := rfl

@[simp] theorem readByte_cons_succ (b : Byte) (rest : Bytes) (i : Nat) : readByte (b :: rest) (i + 1) = readByte rest i := rfl

/-- The tag step reads back the tag field of a producible tag (R59, R60, R81). -/
theorem decodeTag_tagField {t : Half} (good : tagProducible t = true) (after : Bytes) :
    decodeTag (tagField t ++ after) 0 = .ok (t, tagConstructed t, (tagField t).length) := by
  rcases Nat.lt_or_ge 255 t.toNat with long | short
  · obtain ⟨field, first, second, value⟩ := tagField_of_lt good long
    have flag := tagConstructed_twoByteTag (lowByte t.toNat) first
    rw [value] at flag
    simp [decodeTag, field, first, second, value, flag, bind, Except.bind]
  · obtain ⟨field, first, value⟩ := tagField_of_le good short
    have flag := tagConstructed_oneByteTag (lowByte t.toNat)
    rw [value] at flag
    simp [decodeTag, field, first, value, flag, bind, Except.bind]

/-- A length step sees only the bytes from its cursor on. -/
theorem decodeLen_append (front buf : Bytes) (i : Nat) :
    decodeLen (front ++ buf) (front.length + i) =
      (decodeLen buf i).map (fun r => (r.1, front.length + r.2)) := by
  simp only [decodeLen, Nat.add_assoc, readByte_append]
  cases readByte buf i with
  | error e => rfl
  | ok l0 =>
    simp only [bind, Except.bind]
    split
    · rfl
    split
    · cases readByte buf (i + 1) <;> rfl
    split
    · cases readByte buf (i + 1) with
      | error e => rfl
      | ok l1 => cases readByte buf (i + 2) <;> rfl
    · rfl

/-- The length step reads back a length field (R62 to R64, R82). -/
theorem decodeLen_lengthField (n : Half) (after : Bytes) :
    decodeLen (lengthField n ++ after) 0 = .ok (n, (lengthField n).length) := by
  have small := n.isLt
  unfold lengthField
  split
  next short =>
    have short' : isShortLength (lowByte n.toNat) = true := by
      rw [isShortLength, decide_eq_true_iff, lowByte_toNat]
      omega
    have value : zext16 (lowByte n.toNat) = n := BitVec.eq_of_toNat_eq (by simp; omega)
    simp [decodeLen, short', value, bind, Except.bind]
  split
  next one =>
    have value : zext16 (lowByte n.toNat) = n := BitVec.eq_of_toNat_eq (by simp; omega)
    simp [decodeLen, isShortLength, value, bind, Except.bind]
  next two =>
    have value : bigEndian (highByte n.toNat) (lowByte n.toNat) = n := BitVec.eq_of_toNat_eq (by simp; omega)
    simp [decodeLen, isShortLength, value, bind, Except.bind]

/-- The value step takes the value that stands at the cursor (R83). -/
theorem takeValue_append {length : Half} {value : Bytes} (exact_length : value.length = length.toNat) (front after : Bytes) :
    takeValue (front ++ (value ++ after)) front.length length = .ok (value, front.length + length.toNat) := by
  have fits : front.length + length.toNat ≤ (front ++ (value ++ after)).length := by
    simp only [List.length_append]
    omega
  rw [takeValue, memRead, if_pos fits, List.drop_left, ← exact_length, List.take_left]
  rfl

/-! ## One object -/

/-- Two ways to go on after a decoding step are one when they agree on what the step answers. -/
theorem bind_congr_of_ok {α β : Type} {x : Except Stop α} {f g : α → Except Stop β} (h : ∀ a, x = .ok a → f a = g a) :
    (x >>= f) = (x >>= g) := by
  cases x with
  | error e => rfl
  | ok a => exact h a rfl

/-- An object's decoding from the answers of its three steps (R84). -/
theorem decodeOneWith_of_steps {buf value : Bytes} {p1 p2 p3 : Nat} {tag length : Half} {c : Bool}
    (tagStep : decodeTag buf 0 = .ok (tag, c, p1)) (lenStep : decodeLen buf p1 = .ok (length, p2))
    (valueStep : takeValue buf p2 length = .ok (value, p3))
    (children : Bytes → Except Stop Forest) (p : Config.Params) (flag : Bool) (depth : Nat) :
    decodeOneWith children p flag depth buf =
      if c && flag then
        if tooDeep p depth then .error (.raise .depthExceeded)
        else (children value).map (fun subs =>
          (⟨tag, length, value, subs⟩, match p.tail with | .drop => [] | .keep => buf.drop p3))
      else .ok (⟨tag, length, value, .nil⟩, buf.drop p3) := by
  rw [decodeOneWith, tagStep]
  simp only [bind, Except.bind, lenStep, valueStep]
  cases children value <;> rfl

/-- The children are decoded from the object's own value, which is shorter than the buffer, and nothing else is asked of them. -/
theorem decodeOneWith_congr {children children' : Bytes → Except Stop Forest} (p : Config.Params) (flag : Bool) (depth : Nat)
    {buf : Bytes} (agree : ∀ value, value.length + 2 ≤ buf.length → children value = children' value) :
    decodeOneWith children p flag depth buf = decodeOneWith children' p flag depth buf := by
  refine bind_congr_of_ok fun ⟨tag, c, p1⟩ tagStep => bind_congr_of_ok fun ⟨length, p2⟩ lenStep =>
    bind_congr_of_ok fun ⟨value, p3⟩ valueStep => ?_
  obtain ⟨-, shorter⟩ := steps_shorter tagStep lenStep valueStep
  simp only [agree value (by omega)]

/-- An object that decodes is a good node (R20 (a) (b), R67 (d)), its value and what it leaves are shorter than the buffer (R86), and
its children are none or its own value decoded (R84). -/
theorem decodeOneWith_good {children : Bytes → Except Stop Forest} {p : Config.Params} {flag : Bool} {depth : Nat} {buf : Bytes}
    {node : Node} {remainder : Bytes} (h : decodeOneWith children p flag depth buf = .ok (node, remainder)) :
    tagProducible node.tag = true ∧ node.value.length = node.length.toNat ∧
      node.value.length + 2 + remainder.length ≤ buf.length ∧
      (((tagConstructed node.tag && flag) = false ∧ node.subs = .nil) ∨
       ((tagConstructed node.tag && flag) = true ∧ children node.value = .ok node.subs)) := by
  obtain ⟨c, p1, p2, p3, tagStep, lenStep, valueStep, result⟩ := decodeOneWith_ok h
  obtain ⟨-, good, rfl⟩ := decodeTag_good tagStep
  obtain ⟨exact_length, shorter⟩ := steps_shorter tagStep lenStep valueStep
  refine ⟨good, exact_length, ?_⟩
  rcases result with ⟨plain, no_subs, rfl⟩ | ⟨rec, -, subs, rfl⟩
  · exact ⟨shorter, .inl ⟨plain, no_subs⟩⟩
  · refine ⟨?_, .inr ⟨rec, subs⟩⟩
    cases p.tail with
    | drop => simp only [List.length_nil]; omega
    | keep => exact shorter

/-- With no depth bound the level an object stands at makes no difference to it (R88). -/
theorem decodeOneWith_depth {p : Config.Params} (unbounded : p.depthMax = none) (children : Bytes → Except Stop Forest) (flag : Bool)
    (depth depth' : Nat) (buf : Bytes) :
    decodeOneWith children p flag depth buf = decodeOneWith children p flag depth' buf := by
  simp only [decodeOneWith, tooDeep, exceeds, unbounded]

end Sys2Proof.Proofs
end

section
/-! The forest decoder without its counter (R85, R86): the counter is never used up, so `decodeList` meets its recursion equations, and
every property of what it answers is shown by the induction packaged here. -/

namespace Sys2Proof.Proofs

open Sys2Proof.Machine Sys2Proof.Safety

/-! ## The counter makes no difference -/

@[simp] theorem decodeListWithin_nil (p : Config.Params) (flag : Bool) (turns depth : Nat) :
    decodeListWithin p flag turns depth [] = .ok .nil := by
  cases turns <;> rfl

theorem decodeListWithin_filler (p : Config.Params) (flag : Bool) (turns depth : Nat) {b : Byte} (filler : isFiller b = true)
    (rest : Bytes) : decodeListWithin p flag (turns + 1) depth (b :: rest) = decodeListWithin p flag turns depth rest :=
  if_pos filler

theorem decodeListWithin_object (p : Config.Params) (flag : Bool) (turns depth : Nat) {b : Byte} (object : isFiller b = false)
    (rest : Bytes) :
    decodeListWithin p flag (turns + 1) depth (b :: rest) =
      decodeOneWith (decodeListWithin p flag turns (depth + 1)) p flag depth (b :: rest) >>=
        fun r => (decodeListWithin p flag turns depth r.2).map r.1.before := by
  rw [decodeListWithin, if_neg (by simp [object])]
  cases decodeOneWith (decodeListWithin p flag turns (depth + 1)) p flag depth (b :: rest) with
  | error e => rfl
  | ok r =>
    dsimp only [bind, Except.bind]
    cases decodeListWithin p flag turns depth r.2 <;> rfl

/-- Any two counters of at least the buffer's length give the same decoding: every call is on a shorter buffer (R86). -/
theorem decodeListWithin_eq_of_le (p : Config.Params) (flag : Bool) (turns turns' depth : Nat) (buf : Bytes)
    (enough : buf.length ≤ turns) (enough' : buf.length ≤ turns') :
    decodeListWithin p flag turns depth buf = decodeListWithin p flag turns' depth buf := by
  match turns, turns', buf with
  | _, _, [] => simp
  | turns + 1, turns' + 1, b :: rest =>
    simp only [List.length_cons, Nat.add_le_add_iff_right] at enough enough'
    have shorter_eq (depth : Nat) (buf' : Bytes) (shorter : buf'.length ≤ rest.length) :=
      decodeListWithin_eq_of_le p flag turns turns' depth buf' (shorter.trans enough) (shorter.trans enough')
    cases fill : isFiller b with
    | true => rw [decodeListWithin_filler _ _ _ _ fill, decodeListWithin_filler _ _ _ _ fill, shorter_eq depth rest le_rfl]
    | false =>
      rw [decodeListWithin_object _ _ _ _ fill, decodeListWithin_object _ _ _ _ fill,
        decodeOneWith_congr p flag depth fun value shorter => shorter_eq (depth + 1) value (Nat.le_of_lt (by simpa using shorter))]
      refine bind_congr_of_ok fun ⟨node, remainder⟩ decoded => ?_
      obtain ⟨-, -, shorter, -⟩ := decodeOneWith_good decoded
      rw [shorter_eq depth remainder (by simp only [List.length_cons] at shorter; omega)]

theorem decodeListWithin_eq_decodeList (p : Config.Params) (flag : Bool) {turns : Nat} (depth : Nat) {buf : Bytes}
    (enough : buf.length ≤ turns) : decodeListWithin p flag turns depth buf = decodeList p flag depth buf :=
  decodeListWithin_eq_of_le p flag turns buf.length depth buf enough le_rfl

/-! ## The recursion equations of R85 -/

@[simp] theorem decodeList_nil (p : Config.Params) (flag : Bool) (depth : Nat) : decodeList p flag depth [] = .ok .nil := rfl

theorem decodeList_filler (p : Config.Params) (flag : Bool) (depth : Nat) {b : Byte} (filler : isFiller b = true) (rest : Bytes) :
    decodeList p flag depth (b :: rest) = decodeList p flag depth rest :=
  decodeListWithin_filler p flag rest.length depth filler rest

/-- Where an object starts, it is decoded and the decoding goes on with what it leaves; the first stop is the stop of the whole (R87). -/
theorem decodeList_object (p : Config.Params) (flag : Bool) (depth : Nat) {b : Byte} (object : isFiller b = false) (rest : Bytes) :
    decodeList p flag depth (b :: rest) =
      decodeOne p flag depth (b :: rest) >>= fun r => (decodeList p flag depth r.2).map r.1.before := by
  have same_object : decodeOneWith (decodeListWithin p flag rest.length (depth + 1)) p flag depth (b :: rest) =
      decodeOne p flag depth (b :: rest) :=
    decodeOneWith_congr p flag depth fun value shorter =>
      decodeListWithin_eq_decodeList p flag (depth + 1) (Nat.le_of_lt (by simpa using shorter))
  rw [decodeList, List.length_cons, decodeListWithin_object p flag _ depth object, same_object]
  refine bind_congr_of_ok fun ⟨node, remainder⟩ decoded => ?_
  obtain ⟨-, -, shorter, -⟩ := decodeOneWith_good decoded
  rw [decodeListWithin_eq_decodeList p flag depth (buf := remainder) (by simp only [List.length_cons] at shorter; omega)]

/-- The induction over a decoding that answers: no byte, a filler byte before the rest, or an object that decodes, with what holds of
the decoding of its value and of what it leaves. -/
theorem decodeList_induction {p : Config.Params} {flag : Bool} {motive : Nat → Bytes → Forest → Prop}
    (nil : ∀ depth, motive depth [] .nil)
    (filler : ∀ depth b rest f, isFiller b = true → motive depth rest f → motive depth (b :: rest) f)
    (object : ∀ depth buf node remainder nodes, decodeOne p flag depth buf = .ok (node, remainder) →
      (decodeList p flag (depth + 1) node.value = .ok node.subs → motive (depth + 1) node.value node.subs) →
      motive depth remainder nodes → motive depth buf (node.before nodes))
    (depth : Nat) (buf : Bytes) (f : Forest) (decodes : decodeList p flag depth buf = .ok f) : motive depth buf f := by
  match buf with
  | [] => cases decodes; exact nil depth
  | b :: rest =>
    cases fill : isFiller b with
    | true =>
      rw [decodeList_filler p flag depth fill] at decodes
      exact filler depth b rest f fill (decodeList_induction nil filler object depth rest f decodes)
    | false =>
      rw [decodeList_object p flag depth fill] at decodes
      obtain ⟨⟨node, remainder⟩, one, more⟩ := bind_ok decodes
      obtain ⟨-, -, shorter, -⟩ := decodeOneWith_good one
      cases rem : decodeList p flag depth remainder with
      | error e => rw [rem] at more; cases more
      | ok nodes =>
        rw [rem] at more
        cases more
        exact object depth (b :: rest) node remainder nodes one
          (decodeList_induction nil filler object (depth + 1) node.value node.subs)
          (decodeList_induction nil filler object depth remainder nodes rem)
termination_by buf.length
decreasing_by all_goals (simp only [List.length_cons] at *; omega)

/-! ## The nodes of a decoding -/

@[simp] theorem wfForest_before (n : Node) (rest : Forest) :
    wfForest (n.before rest) = true ↔
      (n.value.length = n.length.toNat ∧ tagProducible n.tag = true ∧ (n.subs = .nil ∨ tagConstructed n.tag = true) ∧
        wfForest n.subs = true) ∧ wfForest rest = true := by
  simp [Node.before, wfForest, and_assoc]

@[simp] theorem flat_before (n : Node) (rest : Forest) :
    flat (n.before rest) = true ↔ n.subs = .nil ∧ flat rest = true := by
  simp [Node.before, flat]

/-- An object keeps the invariants of R20 (a) (b) and R67 (d) when the children of its value do. -/
theorem decodeOneWith_wf {children : Bytes → Except Stop Forest} {p : Config.Params} {flag : Bool} {depth : Nat} {buf : Bytes}
    {node : Node} {remainder : Bytes} (h : decodeOneWith children p flag depth buf = .ok (node, remainder))
    (subs_wf : children node.value = .ok node.subs → wfForest node.subs = true) :
    node.value.length = node.length.toNat ∧ tagProducible node.tag = true ∧
      (node.subs = .nil ∨ tagConstructed node.tag = true) ∧ wfForest node.subs = true := by
  obtain ⟨good, exact_length, -, ⟨-, no_subs⟩ | ⟨rec, subs⟩⟩ := decodeOneWith_good h
  · exact ⟨exact_length, good, .inl no_subs, by rw [no_subs]; rfl⟩
  · rw [Bool.and_eq_true] at rec
    exact ⟨exact_length, good, .inr rec.1, subs_wf subs⟩

theorem decodeList_wf {p : Config.Params} {flag : Bool} {depth : Nat} {buf : Bytes} {f : Forest}
    (h : decodeList p flag depth buf = .ok f) : wfForest f = true := by
  refine decodeList_induction (motive := fun _ _ f => wfForest f = true) (fun _ => rfl) (fun _ _ _ _ _ ih => ih) ?_ depth buf f h
  intro depth buf node remainder nodes one subs_wf nodes_wf
  exact (wfForest_before node nodes).mpr ⟨decodeOneWith_wf one subs_wf, nodes_wf⟩

theorem decodeOne_wf {p : Config.Params} {flag : Bool} {depth : Nat} {buf remainder : Bytes} {node : Node}
    (h : decodeOne p flag depth buf = .ok (node, remainder)) : wfForest node.alone = true :=
  (wfForest_before node .nil).mpr ⟨decodeOneWith_wf h decodeList_wf, rfl⟩

/-- Without the recursive flag no node has children (R85 corner case (e)). -/
theorem decodeList_flat {p : Config.Params} {depth : Nat} {buf : Bytes} {f : Forest}
    (h : decodeList p false depth buf = .ok f) : flat f = true := by
  refine decodeList_induction (motive := fun _ _ f => flat f = true) (fun _ => rfl) (fun _ _ _ _ _ ih => ih) ?_ depth buf f h
  intro depth buf node remainder nodes one _ nodes_flat
  obtain ⟨-, -, -, ⟨-, no_subs⟩ | ⟨rec, -⟩⟩ := decodeOneWith_good one
  · exact (flat_before node nodes).mpr ⟨no_subs, nodes_flat⟩
  · simp at rec

/-- Settles O39, by induction over the decoding. -/
theorem decodedNodesAreWellFormed : Obligations.DecodedNodesAreWellFormed := by
  intro p flag depth buf f h
  exact ⟨decodeList_wf h, fun off => decodeList_flat (off ▸ h)⟩

/-! ## Decoding with no depth bound -/

/-- With no depth bound the level a buffer is decoded at makes no difference (R88). -/
theorem decodeListWithin_depth {p : Config.Params} (unbounded : p.depthMax = none) (flag : Bool) (turns depth depth' : Nat)
    (buf : Bytes) : decodeListWithin p flag turns depth buf = decodeListWithin p flag turns depth' buf := by
  induction turns generalizing depth depth' buf with
  | zero => rfl
  | succ turns ih =>
    cases buf with
    | nil => rfl
    | cons b rest =>
      have same_object :
          decodeOneWith (decodeListWithin p flag turns (depth + 1)) p flag depth (b :: rest) =
            decodeOneWith (decodeListWithin p flag turns (depth' + 1)) p flag depth' (b :: rest) := by
        rw [funext (ih (depth + 1) (depth' + 1)), decodeOneWith_depth unbounded]
      simp only [decodeListWithin, same_object, ih depth depth']

theorem decodeList_depth {p : Config.Params} (unbounded : p.depthMax = none) (flag : Bool) (depth depth' : Nat) (buf : Bytes) :
    decodeList p flag depth buf = decodeList p flag depth' buf :=
  decodeListWithin_depth unbounded flag buf.length depth depth' buf

/-- Settles O40: of the nodes in pre-order the first is an object, whose children are its value decoded, and the others are nodes of
those children or of what the object leaves. -/
theorem childrenAreTheValueDecoded : Obligations.ChildrenAreTheValueDecoded := by
  intro p depth buf f unbounded h
  refine decodeList_induction
    (motive := fun _ _ f => ∀ n ∈ f.preorder, tagConstructed n.tag = true → decodeList p true depth n.value = .ok n.subs)
    (fun _ n mem => nomatch mem) (fun _ _ _ _ _ ih => ih) ?_ depth buf f h
  intro level buf node remainder nodes one in_subs in_nodes n mem constructed
  obtain ⟨-, -, -, children⟩ := decodeOneWith_good one
  rw [Node.before, Forest.preorder, List.mem_cons, List.mem_append] at mem
  rcases mem with rfl | mem | mem
  · rcases children with ⟨plain, -⟩ | ⟨-, subs⟩
    · simp [constructed] at plain
    · rwa [decodeList_depth unbounded true depth (level + 1)]
  · rcases children with ⟨-, no_subs⟩ | ⟨-, subs⟩
    · rw [no_subs] at mem
      cases mem
    · exact in_subs subs n mem constructed
  · exact in_nodes n mem constructed

/-! ## Trees written out -/

/-- One object written out (R57) is decoded back, when its children are what its value decodes to, and under `TAIL` = `KEEP` the bytes
after it are left (R84). -/
theorem decodeOne_written {p : Config.Params} (keep : p.tail = .keep) (unbounded : p.depthMax = none) (depth : Nat)
    {tag length : Half} {value : Bytes} {subs : Forest} (good : tagProducible tag = true)
    (exact_length : value.length = length.toNat)
    (children : if tagConstructed tag then decodeList p true (depth + 1) value = .ok subs else subs = .nil) (after : Bytes) :
    decodeOne p true depth (tagField tag ++ lengthField length ++ value ++ after) =
      .ok (⟨tag, length, value, subs⟩, after) := by
  have tagStep : decodeTag (tagField tag ++ lengthField length ++ value ++ after) 0 =
      .ok (tag, tagConstructed tag, (tagField tag).length) := by
    simpa only [List.append_assoc] using decodeTag_tagField good (lengthField length ++ (value ++ after))
  have lenStep : decodeLen (tagField tag ++ lengthField length ++ value ++ after) (tagField tag).length =
      .ok (length, (tagField tag ++ lengthField length).length) := by
    have := decodeLen_append (tagField tag) (lengthField length ++ (value ++ after)) 0
    rw [decodeLen_lengthField] at this
    simpa [Except.map] using this
  have valueStep : takeValue (tagField tag ++ lengthField length ++ value ++ after)
      (tagField tag ++ lengthField length).length length =
      .ok (value, (tagField tag ++ lengthField length).length + length.toNat) := by
    simpa only [List.append_assoc] using takeValue_append exact_length (tagField tag ++ lengthField length) after
  have left : (tagField tag ++ lengthField length ++ value ++ after).drop
      ((tagField tag ++ lengthField length).length + length.toNat) = after := by
    rw [← exact_length, ← List.length_append, List.drop_left]
  rw [decodeOne, decodeOneWith_of_steps tagStep lenStep valueStep, left]
  have shallow : tooDeep p depth = false := by simp [tooDeep, exceeds, unbounded]
  cases c : tagConstructed tag with
  | false =>
    rw [c, if_neg Bool.false_ne_true] at children
    simp [children]
  | true =>
    rw [c, if_pos rfl] at children
    simp [children, shallow, keep, Except.map]

/-- Settles O35, by induction on the tree: the first object is decoded back by its fields, its children and its siblings by induction. -/
theorem treesDecodeFromTheirBytes : Obligations.TreesDecodeFromTheirBytes := by
  intro p depth f keep unbounded tree
  induction f generalizing depth with
  | nil => rfl
  | cons tag length value subs rest ih_subs ih_rest =>
    simp only [isWireTree, Bool.and_eq_true, Bool.not_eq_true', decide_eq_true_eq] at tree
    obtain ⟨⟨⟨⟨⟨good, no_filler⟩, exact_length⟩, children⟩, subs_tree⟩, rest_tree⟩ := tree
    have decoded : if tagConstructed tag then decodeList p true (depth + 1) value = .ok subs else subs = .nil := by
      split at children
      next c => rw [if_pos c, of_decide_eq_true children]; exact ih_subs (depth + 1) subs_tree
      next c => rw [if_neg c]; exact of_decide_eq_true children
    have one := decodeOne_written keep unbounded depth good exact_length decoded (wireBytes rest)
    obtain ⟨b, more, field⟩ := List.exists_cons_of_ne_nil (tagField_ne_nil tag)
    rw [field] at no_filler one
    simp only [wireBytes, field, List.cons_append] at one ⊢
    rw [decodeList_object p true depth (by simpa using no_filler), one]
    simp [bind, Except.bind, ih_rest depth rest_tree, Except.map, Node.before]

end Sys2Proof.Proofs
end

section
/-! The chained build in closed form (R53, R71, R73): its loop writes one chaining packet per full block that more bytes follow. -/

namespace Sys2Proof.Proofs

open Sys2Proof.Machine Sys2Proof.Safety

theorem shortPacket_eq (cla ins p1 p2 : Byte) (block : Bytes) :
    shortPacket cla ins p1 p2 block = [cla, ins, p1, p2, lowByte block.length] ++ block := rfl

theorem chainPacket_eq (ins p1 p2 : Byte) (block : Bytes) :
    chainPacket ins p1 p2 block = [0x10, ins, p1, p2, 0xFE] ++ block := rfl

@[simp] theorem length_shortPacket (cla ins p1 p2 : Byte) (block : Bytes) :
    (shortPacket cla ins p1 p2 block).length = 5 + block.length := by
  rw [shortPacket_eq, List.length_append]
  rfl

@[simp] theorem length_chainPacket (ins p1 p2 : Byte) (block : Bytes) :
    (chainPacket ins p1 p2 block).length = 5 + block.length := by
  rw [chainPacket_eq, List.length_append]
  rfl

theorem slice_to_end (s : Bytes) (a : Nat) : slice s a s.length = s.drop a :=
  List.take_of_length_le (List.length_drop ..).le

theorem slice_block (s : Bytes) (j : Nat) : slice s (j * 254) ((j + 1) * 254) = (s.drop (254 * j)).take 254 := by
  rw [slice, Nat.mul_comm j, show (j + 1) * 254 - 254 * j = 254 by omega]

/-- The loop of R71 with `j` blocks written, `left` to be written, and turns enough for them. -/
theorem chainFrom_eq (cla ins p1 p2 : Byte) (payload : Bytes) (left turns j : Nat)
    (count : j + left = chainingCount payload.length) (enough : left ≤ turns) :
    chainFrom cla ins p1 p2 payload turns (j + 1) =
      (List.range' j left).map (fun i => chainPacket ins p1 p2 ((payload.drop (254 * i)).take 254)) ++
        [shortPacket cla ins p1 p2 (payload.drop (254 * chainingCount payload.length))] := by
  have more : payload.length > Config.chunk * (j + 1) ↔ 0 < left := by
    simp only [Config.chunk, chainingCount] at count ⊢
    omega
  induction left generalizing turns j with
  | zero =>
    have last : shortPacket cla ins p1 p2 (slice payload ((j + 1 - 1) * Config.chunk) payload.length) =
        shortPacket cla ins p1 p2 (payload.drop (254 * chainingCount payload.length)) := by
      rw [slice_to_end, ← count, Nat.mul_comm]
      rfl
    cases turns with
    | zero => rw [chainFrom, last]; rfl
    | succ turns => rw [chainFrom, if_neg (by simp [more]), last]; rfl
  | succ left ih =>
    obtain ⟨turns, rfl⟩ : ∃ k, turns = k + 1 := ⟨turns - 1, by omega⟩
    rw [chainFrom, if_pos (more.mpr (Nat.succ_pos left)),
      ih turns (j + 1) (by omega) (by omega) (by simp only [Config.chunk, chainingCount] at count ⊢; omega),
      Nat.add_sub_cancel, slice_block, List.range'_succ]
    rfl

/-- The packet list of `FRM.BUILD` (R71, R73). -/
theorem frameChained_eq (cla ins p1 p2 : Byte) (payload : Bytes) :
    frame false cla ins p1 p2 payload =
      (List.range (chainingCount payload.length)).map (fun j => chainPacket ins p1 p2 ((payload.drop (254 * j)).take 254)) ++
        [shortPacket cla ins p1 p2 (payload.drop (254 * chainingCount payload.length))] := by
  rw [List.range_eq_range']
  exact chainFrom_eq cla ins p1 p2 payload _ payload.length 0 (Nat.zero_add _) ((Nat.div_le_self _ _).trans (Nat.sub_le _ _))

/-- Settles O17, by the closed form of the packet list. -/
theorem chainedPacketCountAndSizes : Obligations.ChainedPacketCountAndSizes := by
  intro cla ins p1 p2 payload
  refine ⟨_, _, frameChained_eq cla ins p1 p2 payload, ?_, ?_, ?_, rfl, ?_, ?_, ?_⟩
  · rw [List.length_map, List.length_range, chainingCount]
    split <;> omega
  · intro fits
    rw [List.length_map, List.length_range, chainingCount]
    omega
  · intro p mem
    obtain ⟨j, in_range, rfl⟩ := List.mem_map.mp mem
    rw [List.mem_range, chainingCount] at in_range
    refine ⟨?_, rfl⟩
    rw [length_chainPacket, List.length_take, List.length_drop]
    omega
  · rw [length_shortPacket, List.length_drop, chainingCount]
    omega
  · rintro rfl
    rfl
  · intro some_byte
    have := List.length_pos_iff.mpr some_byte
    rw [length_shortPacket, List.length_drop, chainingCount]
    omega

end Sys2Proof.Proofs
end

section
/-! What an instruction can do, said once (R24, R104): each of the seven groups of instructions is a shared operation of the model, so a
step that is taken has one of the effects listed here. The register invariant, the access table and R11 follow from that. -/

namespace Sys2Proof.Proofs

open Sys2Proof.Machine Sys2Proof.Safety

/-! ## The groups of instructions -/

/-- The rows of the access table (R24), and the wire forms by the unit they are steps of. -/
inductive Group where
  | build | reply | query | decoding | packetForm | fieldForm | illegalForm
deriving DecidableEq

/-- The group of an instruction. -/
def group : Instr → Group
  | .frmBuild .. | .frmBuildx .. => .build
  | .rspParse .. | .rpl .. | .swOk | .swMore .. | .swOther .. => .reply
  | .rspOkay | .rspAvail | .tlvFind .. => .query
  | .tlvOne .. | .tlvList .. => .decoding
  | .pktFinal .. | .pktChain .. | .pktExt1 .. | .pktExt3 .. => .packetForm
  | .tag1 .. | .tag2 .. | .lenShort .. | .lenOne .. | .lenTwo .. | .fill00 | .fillFF => .fieldForm
  | .tagBad .. | .lenBad .. => .illegalForm

theorem isBuild_eq (i : Instr) : isBuild i = decide (group i = .build) := by cases i <;> rfl
theorem isReply_eq (i : Instr) : isReply i = decide (group i = .reply) := by cases i <;> rfl
theorem isQuery_eq (i : Instr) : isQuery i = decide (group i = .query) := by cases i <;> rfl
theorem isDecoding_eq (i : Instr) : isDecoding i = decide (group i = .decoding) := by cases i <;> rfl
theorem isPacketForm_eq (i : Instr) : isPacketForm i = decide (group i = .packetForm) := by cases i <;> rfl
theorem isFieldForm_eq (i : Instr) : isFieldForm i = decide (group i = .fieldForm) := by cases i <;> rfl
theorem isIllegalForm_eq (i : Instr) : isIllegalForm i = decide (group i = .illegalForm) := by cases i <;> rfl

/-! ## The operation behind each group -/

/-- `FRM.BUILD` and `FRM.BUILDX` are the one build of R71 and R72, told apart by `FMODE`. -/
theorem exec_of_build {i : Instr} (h : group i = .build) :
    ∃ m cla ins p1 p2 payload, ∀ s, exec i s = build m cla ins p1 p2 payload s := by
  cases i with
  | frmBuild cla ins p1 p2 payload => exact ⟨false, cla, ins, p1, p2, payload, fun _ => rfl⟩
  | frmBuildx cla ins p1 p2 payload => exact ⟨true, cla, ins, p1, p2, payload, fun _ => rfl⟩
  | _ => cases h

/-- A reply or status form is the parse of its reply, which holds two bytes at least, unless it is a status form with a pair of another
class (R55, R56). -/
theorem exec_of_reply {i : Instr} (h : group i = .reply) :
    (∃ raw, (∀ s, exec i s = parse raw s) ∧ (splitReply raw = none → i = .rspParse raw)) ∨
      ∀ s, exec i s = .refused .notThisForm := by
  have two_bytes (data : Bytes) (sw1 sw2 : Byte) : splitReply (data ++ [sw1, sw2]) ≠ none := by simp [splitReply]
  cases i with
  | rspParse raw => exact .inl ⟨raw, fun _ => rfl, fun _ => rfl⟩
  | rpl data sw1 sw2 => exact .inl ⟨_, fun _ => rfl, fun short => absurd short (two_bytes data sw1 sw2)⟩
  | swOk => exact .inl ⟨_, fun _ => rfl, fun short => absurd short (two_bytes [] _ _)⟩
  | swMore n => exact .inl ⟨_, fun _ => rfl, fun short => absurd short (two_bytes [] _ n)⟩
  | swOther sw1 sw2 =>
    cases other : isOkPair sw1 sw2 || isMorePair sw1 with
    | true => exact .inr fun _ => if_pos other
    | false =>
      exact .inl ⟨_, fun _ => if_neg (by simp [other]), fun short => absurd short (two_bytes [] sw1 sw2)⟩
  | _ => cases h

/-- A decoding operation is refused over `IBUF_MAX`, else ends as its decoding does, which reads the parameters alone and answers good
nodes (R20, R84, R85). -/
theorem exec_of_decoding {i : Instr} (h : group i = .decoding) :
    ∃ (buf : Bytes) (decoded : Config.Params → Except Stop (Forest × Bytes × Result)),
      (∀ s, exec i s =
        if exceeds buf.length s.params.ibufMax then .refused .bufferTooLong else endDecoding s (decoded s.params)) ∧
      ∀ p forest remainder result, decoded p = .ok (forest, remainder, result) → wfForest forest = true := by
  cases i with
  | tlvOne buf flag =>
    refine ⟨buf, fun p => (decodeOne p flag 0 buf).map fun r => (r.1.alone, r.2, Result.one r.1 r.2), fun _ => rfl, ?_⟩
    intro p forest remainder result ok
    cases one : decodeOne p flag 0 buf with
    | error e => simp [one, Except.map] at ok
    | ok r =>
      simp only [one, Except.map, Except.ok.injEq, Prod.mk.injEq] at ok
      exact ok.1 ▸ decodeOne_wf one
  | tlvList buf flag =>
    refine ⟨buf, fun p => (decodeList p flag 0 buf).map fun nodes => (nodes, [], Result.forest nodes), fun _ => rfl, ?_⟩
    intro p forest remainder result ok
    cases nodes : decodeList p flag 0 buf with
    | error e => simp [nodes, Except.map] at ok
    | ok f =>
      simp only [nodes, Except.map, Except.ok.injEq, Prod.mk.injEq] at ok
      exact ok.1 ▸ decodeList_wf nodes
  | _ => cases h

/-- A packet form of a length its format holds is the step of the build in flight that writes its bytes (R48 to R51). -/
theorem exec_of_packetForm {i : Instr} (h : group i = .packetForm) :
    ∃ chaining, ∀ s, exec i s =
      if i.wellFormed then stepFramer chaining (encode i).bytes s else .refused .notThisForm := by
  cases i with
  | pktChain ins p1 p2 block => exact ⟨true, fun _ => rfl⟩
  | pktFinal cla ins p1 p2 block => exact ⟨false, fun _ => rfl⟩
  | pktExt1 cla ins p1 p2 block => exact ⟨false, fun _ => rfl⟩
  | pktExt3 cla ins p1 p2 block => exact ⟨false, fun _ => rfl⟩
  | _ => cases h

/-- A legal tag, length or filler form is the step of the decoding in flight that passes its bytes and keeps the level it is at (R81,
R82, R66). -/
theorem exec_of_fieldForm {i : Instr} (h : group i = .fieldForm) :
    ∃ keep : DecoderWork → DecoderWork, (∀ d, (keep d).frames = d.frames) ∧
      ∀ s, exec i s = if i.wellFormed then stepDecoder (encode i).bytes keep s else .refused .notThisForm := by
  cases i with
  | tag1 b0 =>
    refine ⟨fun d => { d with tag := oneByteTag b0, constructed := isConstructed b0 }, fun _ => rfl, fun s => ?_⟩
    cases two : lowFiveSet b0 <;> simp [exec, execTag1, Instr.wellFormed, encode, two]
  | tag2 b0 b1 =>
    exact ⟨fun d => { d with tag := twoByteTag b0 b1, constructed := isConstructed b0 }, fun _ => rfl, fun _ => rfl⟩
  | lenShort l0 => exact ⟨fun d => { d with length := zext16 l0 }, fun _ => rfl, fun _ => rfl⟩
  | lenOne l1 => exact ⟨fun d => { d with length := zext16 l1 }, fun _ => rfl, fun _ => rfl⟩
  | lenTwo l1 l2 => exact ⟨fun d => { d with length := bigEndian l1 l2 }, fun _ => rfl, fun _ => rfl⟩
  | fill00 => exact ⟨id, fun _ => rfl, fun _ => rfl⟩
  | fillFF => exact ⟨id, fun _ => rfl, fun _ => rfl⟩
  | _ => cases h

/-- An illegal form met by the decoding in flight raises (R61, R65). -/
theorem exec_of_illegalForm {i : Instr} (h : group i = .illegalForm) :
    ∃ kind, ∀ s, exec i s =
      if i.wellFormed then stepDecoderRaise (encode i).bytes kind s else .refused .notThisForm := by
  cases i with
  | tagBad b0 b1 => exact ⟨.badTagExtension, fun _ => rfl⟩
  | lenBad l0 => exact ⟨.badLength, fun _ => rfl⟩
  | _ => cases h

/-- What is refused on a condition is taken only without it. -/
theorem ite_refused_next {c : Prop} [Decidable c] {why : Refusal} {o : Host.Outcome State Fault Refusal} {t : State}
    (h : (if c then .refused why else o) = .next t) : ¬ c ∧ o = .next t := by
  split at h
  · cases h
  · exact ⟨‹_›, h⟩

/-- What is refused without a condition is taken only on it. -/
theorem ite_next {c : Prop} [Decidable c] {why : Refusal} {o : Host.Outcome State Fault Refusal} {t : State}
    (h : (if c then o else .refused why) = .next t) : c ∧ o = .next t := by
  split at h
  · exact ⟨‹_›, h⟩
  · cases h

theorem exec_rspOkay_next {s t : State} (h : exec .rspOkay s = .next t) :
    s.rsp.rv = true ∧ t = finish (.okay (okayFlag s.rsp)) s := by
  obtain ⟨rv, h⟩ := ite_next h
  cases h
  exact ⟨rv, rfl⟩

theorem exec_rspAvail_next {s t : State} (h : exec .rspAvail s = .next t) :
    s.rsp.rv = true ∧ t = finish (.avail (availAnswer s.rsp)) s := by
  obtain ⟨rv, h⟩ := ite_next h
  cases h
  exact ⟨rv, rfl⟩

/-! ## The effects -/

/-- Everything an instruction that is taken can do to the state. -/
inductive Effect (i : Instr) (s : State) : State → Prop where
  | built (m : Bool) (cla ins p1 p2 : Byte) (payload : Bytes) : group i = .build → payload.length ≤ Config.payloadMax →
      Effect i s (finish (.packets (frame m cla ins p1 p2 payload))
        (writeCommand m cla ins p1 p2 payload (frame m cla ins p1 p2 payload) s))
  | replied (data : Bytes) (sw1 sw2 : Byte) : group i = .reply →
      Effect i s (finish (.response data sw1 sw2) (writeResponse data sw1 sw2 s))
  | replyTooShort (raw : Bytes) : i = .rspParse raw → splitReply raw = none → Effect i s (raise .tooShortReply s)
  | answered (result : Result) : i = .rspOkay ∨ i = .rspAvail → Effect i s (finish result s)
  | lookedUp (key : Half) : i = .tlvFind key → s.tlv.fv = true →
      Effect i s (finish (.found (findIn key s.tlv.forest)) (writeLookup key (findIn key s.tlv.forest) s))
  | decoded (forest : Forest) (remainder : Bytes) (result : Result) : group i = .decoding → wfForest forest = true →
      Effect i s (finish result (writeForest forest remainder s))
  | decodingFaulted (kind : FaultKind) : group i = .decoding → Effect i s (raise kind s)
  | packetWritten (w : FramerWork) : group i = .packetForm → (s.framer.getD FramerWork.opened).k ≤ w.k →
      Effect i s { s with framer := some w }
  | fieldPassed (bytes : Bytes) (d e : DecoderWork) : group i = .fieldForm →
      (s.decoder.getD DecoderWork.opened).pass bytes = some d → e.frames = d.frames → Effect i s { s with decoder := some e }
  | illegalRaised (kind : FaultKind) : group i = .illegalForm → Effect i s (raise kind s)

theorem exec_effect {i : Instr} {s t : State} (h : exec i s = .next t) : Effect i s t := by
  cases g : group i with
  | build =>
    obtain ⟨m, cla, ins, p1, p2, payload, run⟩ := exec_of_build g
    obtain ⟨fits, rfl⟩ := build_next (run s ▸ h)
    exact .built m cla ins p1 p2 payload g fits
  | reply =>
    rcases exec_of_reply g with ⟨raw, run, short⟩ | refused
    · rcases parse_next (run s ▸ h) with ⟨none, rfl⟩ | ⟨data, sw1, sw2, -, rfl⟩
      · exact .replyTooShort raw (short none) none
      · exact .replied data sw1 sw2 g
    · rw [refused s] at h
      cases h
  | query =>
    cases i with
    | rspOkay => obtain ⟨-, rfl⟩ := exec_rspOkay_next h; exact .answered _ (.inl rfl)
    | rspAvail => obtain ⟨-, rfl⟩ := exec_rspAvail_next h; exact .answered _ (.inr rfl)
    | tlvFind key => obtain ⟨fv, rfl⟩ := execTlvFind_next h; exact .lookedUp key rfl fv
    | _ => cases g
  | decoding =>
    obtain ⟨buf, decoded, run, wf⟩ := exec_of_decoding g
    rcases endDecoding_next (ite_refused_next (run s ▸ h)).2 with ⟨kind, -, rfl⟩ | ⟨forest, remainder, result, ok, -, rfl⟩
    · exact .decodingFaulted kind g
    · exact .decoded forest remainder result g (wf _ _ _ _ ok)
  | packetForm =>
    obtain ⟨chaining, run⟩ := exec_of_packetForm g
    obtain ⟨w, -, counted, rfl⟩ := stepFramer_next (ite_next (run s ▸ h)).2
    exact .packetWritten w g counted
  | fieldForm =>
    obtain ⟨keep, same_frames, run⟩ := exec_of_fieldForm g
    obtain ⟨d, passed, rfl⟩ := stepDecoder_next (ite_next (run s ▸ h)).2
    exact .fieldPassed _ d (keep d) g passed (same_frames d)
  | illegalForm =>
    obtain ⟨kind, run⟩ := exec_of_illegalForm g
    obtain rfl := stepDecoderRaise_next (ite_next (run s ▸ h)).2
    exact .illegalRaised kind g

end Sys2Proof.Proofs
end

section
/-! The register invariant (R14 to R25) and the access table (R24), read off the effects. -/

namespace Sys2Proof.Proofs

open Sys2Proof.Machine Sys2Proof.Safety

/-! ## The invariant -/

theorem commandInv_writeCommand (m : Bool) (cla ins p1 p2 : Byte) {payload : Bytes} (s : State)
    (fits : payload.length ≤ Config.payloadMax) :
    CommandInv (writeCommand m cla ins p1 p2 payload (frame m cla ins p1 p2 payload) s).cmd := by
  refine fun _ => ⟨fits, ?_, rfl, rfl⟩
  rw [writeCommand_cmd, BitVec.toNat_ofNat]
  exact Nat.mod_eq_of_lt (Nat.lt_succ_of_le fits)

/-- What the search finds carries the key, and is a node of the forest searched, so it is as good as that (R90, R91). -/
theorem findIn_some {key : Half} {f : Forest} {n : Node} (found : findIn key f = some n) (wf : wfForest f = true) :
    n.tag = key ∧ wfForest n.alone = true := by
  induction f with
  | nil => cases found
  | cons tag length value subs rest ih_subs ih_rest =>
    obtain ⟨root_wf, rest_wf⟩ := (wfForest_before ⟨tag, length, value, subs⟩ rest).mp wf
    rw [findIn] at found
    split at found
    next here =>
      cases found
      exact ⟨here, (wfForest_before _ .nil).mpr ⟨root_wf, rfl⟩⟩
    next =>
      split at found
      next below => cases found; exact ih_subs below root_wf.2.2.2
      next => exact ih_rest found rest_wf

theorem lookupInv_writeLookup (key : Half) {s : State} (wf : wfForest s.tlv.forest = true) :
    LookupInv (writeLookup key (findIn key s.tlv.forest) s).look := by
  intro hit
  obtain ⟨n, found⟩ := Option.isSome_iff_exists.mp hit
  rw [writeLookup_look, found]
  exact ⟨rfl, findIn_some found wf⟩

theorem workInv_idle {s : State} (no_build : s.framer = none) (no_decoding : s.decoder = none) : WorkInv s := by
  constructor <;> intro w running
  · rw [no_build] at running
    cases running
  · rw [no_decoding] at running
    cases running

/-- Fault entry keeps the invariant: the groups stay, and nothing is left in flight (R104). -/
theorem goodState_raise (kind : FaultKind) {s : State} (good : GoodState s) : GoodState (raise kind s) := by
  obtain ⟨cmd, rsp, tlv, look, -⟩ := good
  exact ⟨cmd, rsp, tlv, look, workInv_idle rfl rfl⟩

theorem opened_k_pos {s : State} (work : WorkInv s) : 1 ≤ (s.framer.getD FramerWork.opened).k := by
  cases running : s.framer with
  | none => exact le_rfl
  | some w => exact work.1 w running

theorem opened_bounded {s : State} (work : WorkInv s) :
    ∀ f ∈ (s.decoder.getD DecoderWork.opened).frames, f.pos ≤ f.slice.length := by
  cases running : s.decoder with
  | none => exact fun f mem => nomatch mem
  | some d => exact work.2 d running

theorem effect_good {i : Instr} {s t : State} (effect : Effect i s t) (good : GoodState s) : GoodState t := by
  obtain ⟨cmd, rsp, tlv, look, work⟩ := id good
  cases effect with
  | built m cla ins p1 p2 payload _ fits =>
    exact ⟨commandInv_writeCommand m cla ins p1 p2 s fits, rsp, tlv, look, workInv_idle rfl rfl⟩
  | replied => exact ⟨cmd, fun _ => rfl, tlv, look, workInv_idle rfl rfl⟩
  | answered => exact ⟨cmd, rsp, tlv, look, workInv_idle rfl rfl⟩
  | lookedUp key _ fv => exact ⟨cmd, rsp, tlv, lookupInv_writeLookup key (tlv fv), workInv_idle rfl rfl⟩
  | decoded _ _ _ _ wf => exact ⟨cmd, rsp, fun _ => wf, look, workInv_idle rfl rfl⟩
  | replyTooShort => exact goodState_raise _ good
  | decodingFaulted kind => exact goodState_raise kind good
  | illegalRaised kind => exact goodState_raise kind good
  | packetWritten w _ counted =>
    refine ⟨cmd, rsp, tlv, look, fun w' eq => ?_, work.2⟩
    cases eq
    exact (opened_k_pos work).trans counted
  | fieldPassed bytes d e _ passed same_frames =>
    refine ⟨cmd, rsp, tlv, look, work.1, fun e' eq => ?_⟩
    cases eq
    rw [same_frames]
    exact pass_bounded passed (opened_bounded work)

/-- A step that is taken does nothing, with no request pending, or takes the oldest request out and runs what it decodes to (R12, R25). -/
theorem step_next {s t : State} (h : step s = .next t) :
    (s.inbox = [] ∧ t = s) ∨
    ∃ r rest i, s.inbox = r :: rest ∧ decode r = .ok i ∧ exec i { s with inbox := rest } = .next t := by
  unfold step at h
  split at h
  next idle => cases h; exact .inl ⟨idle, rfl⟩
  next r rest pending =>
    split at h
    next i ok => exact .inr ⟨r, rest, i, pending, ok, h⟩
    next => cases h

/-- Settles O8: the instruction run has one of the effects, and each keeps the invariant. -/
theorem stepKeepsTheInvariant : Obligations.StepKeepsTheInvariant := by
  intro s t good h
  rcases step_next h with ⟨-, rfl⟩ | ⟨r, rest, i, -, -, run⟩
  · exact good
  · exact effect_good (exec_effect run) good

/-- Settles O7: no valid bit is set at reset, and nothing is in flight. -/
theorem resetMeetsTheInvariant : Obligations.ResetMeetsTheInvariant := by
  unfold Obligations.ResetMeetsTheInvariant
  exact ⟨nofun, nofun, nofun, nofun, workInv_idle rfl rfl⟩

/-! ## The access table -/

/-- Settles O10: each effect writes the registers of its own group alone. -/
theorem accessTable : Obligations.AccessTable := by
  intro i s t h
  simp only [isBuild_eq, isReply_eq, isDecoding_eq, isQuery_eq, isFieldForm_eq, isPacketForm_eq]
  cases exec_effect h with
  | built _ _ _ _ _ _ g => simp [g]
  | replied _ _ _ g => simp [g]
  | replyTooShort raw is_parse => simp [is_parse, group]
  | answered _ is_query => rcases is_query with rfl | rfl <;> simp [group]
  | lookedUp key is_find => simp [is_find, group]
  | decoded _ _ _ g => simp [g]
  | decodingFaulted _ g => simp [g]
  | packetWritten _ g => simp [g]
  | fieldPassed _ _ _ g => simp [g]
  | illegalRaised _ g => simp [g]

theorem hostRead_KEY (s : State) :
    hostRead s .KEY = if s.look.keyed then .ok (.half s.look.key) else .error .noValue := rfl

/-- Settles O59: of the instructions a lookup alone writes the lookup group (O10), and it writes `KEY` with its key. -/
theorem keyReadsNeedALookup : Obligations.KeyReadsNeedALookup := by
  refine ⟨fun key s t h => ?_, fun i s t no_lookup h => ?_, rfl⟩
  · obtain ⟨-, rfl⟩ := execTlvFind_next h
    rfl
  · obtain ⟨-, -, -, -, -, same_look, -⟩ := accessTable i s t h
    rw [hostRead_KEY, hostRead_KEY, same_look no_lookup]

/-! ## R11: a producing operation is a function of its operands -/

theorem parse_ignores_state {raw : Bytes} {s s' t : State} (params : s.params = s'.params) (h : parse raw s = .next t) :
    ∃ t', parse raw s' = .next t' ∧ t'.outcome = t.outcome ∧ t'.err = t.err ∧ (t.err = none → t'.rsp = t.rsp) := by
  obtain ⟨fits, -⟩ := ite_refused_next h
  rw [params] at fits
  rcases parse_next h with ⟨short, rfl⟩ | ⟨data, sw1, sw2, cut, rfl⟩
  · refine ⟨raise .tooShortReply s', ?_, rfl, rfl, nofun⟩
    simp [parse, fits, short]
  · refine ⟨finish (.response data sw1 sw2) (writeResponse data sw1 sw2 s'), ?_, rfl, rfl, fun _ => rfl⟩
    simp [parse, fits, cut]

theorem endDecoding_ignores_state {s s' t : State} {decoded : Except Stop (Forest × Bytes × Result)}
    (params : s.params = s'.params) (h : endDecoding s decoded = .next t) :
    ∃ t', endDecoding s' decoded = .next t' ∧ t'.outcome = t.outcome ∧ t'.err = t.err ∧ (t.err = none → t'.tlv = t.tlv) := by
  rcases endDecoding_next h with ⟨kind, rfl, rfl⟩ | ⟨forest, remainder, result, rfl, fits, rfl⟩
  · exact ⟨raise kind s', rfl, rfl, rfl, nofun⟩
  · refine ⟨finish result (writeForest forest remainder s'), ?_, rfl, rfl, fun _ => rfl⟩
    simp [endDecoding, ← params, fits]

/-- Settles O12: a producing operation is a build, a parse or a decoding, and each reads the parameters of the state alone. -/
theorem producingOperationsIgnoreTheState : Obligations.ProducingOperationsIgnoreTheState := by
  intro i s s' t params producing h
  simp only [isBuild_eq, isReply_eq, isDecoding_eq, decide_eq_true_eq] at producing ⊢
  rcases producing with g | g | g
  · obtain ⟨m, cla, ins, p1, p2, payload, run⟩ := exec_of_build g
    obtain ⟨fits, rfl⟩ := build_next (run s ▸ h)
    refine ⟨_, (run s').trans (if_pos fits), ?_⟩
    simp [g]
  · rcases exec_of_reply g with ⟨raw, run, -⟩ | refused
    · obtain ⟨t', run', outcome, err, rsp⟩ := parse_ignores_state params (run s ▸ h)
      exact ⟨t', (run s').trans run', outcome, err, fun none => by simp [g, rsp none]⟩
    · rw [refused s] at h
      cases h
  · obtain ⟨buf, decoded, run, -⟩ := exec_of_decoding g
    obtain ⟨fits, ended⟩ := ite_refused_next (run s ▸ h)
    obtain ⟨t', run', outcome, err, tlv⟩ := endDecoding_ignores_state params ended
    rw [params] at fits run'
    exact ⟨t', (run s').trans ((if_neg fits).trans run'), outcome, err, fun none => by simp [g, tlv none]⟩

/-! ## The cursor of the decoding in flight -/

theorem encode_ne_nil (i : Instr) : (encode i).bytes ≠ [] := by
  cases i <;> simp [encode, shortPacket, chainPacket, longPacket, packet]

section
variable {d : DecoderWork} {f : Frame} {outer : List Frame} (at_level : d.frames = f :: outer) (bytes : Bytes)
include at_level

theorem pass_standing (here : ∃ after, f.slice.drop f.pos = bytes ++ after) :
    d.pass bytes = some { d with frames := { f with pos := f.pos + bytes.length } :: outer } := by
  obtain ⟨after, here⟩ := here
  simp [DecoderWork.pass, at_level, here]

theorem pass_arriving (some_byte : bytes ≠ []) (at_end : f.pos = f.slice.length) :
    d.pass bytes =
      some { d with frames := { f with slice := f.slice ++ bytes, pos := f.pos + bytes.length } :: outer } := by
  simp [DecoderWork.pass, at_level, at_end, some_byte]

theorem pass_elsewhere (not_here : ¬ ∃ after, f.slice.drop f.pos = bytes ++ after) (not_at_end : f.pos ≠ f.slice.length) :
    d.pass bytes = none := by
  have no_match : bytes.isPrefixOf (f.slice.drop f.pos) = false := by
    rw [← Bool.not_eq_true, List.isPrefixOf_iff_prefix]
    exact fun ⟨after, eq⟩ => not_here ⟨after, eq.symm⟩
  simp [DecoderWork.pass, at_level, no_match, not_at_end]

end

theorem stepDecoder_of_pass {bytes : Bytes} {keep : DecoderWork → DecoderWork} {s : State} {d e : DecoderWork}
    (running : s.decoder = some d) (passed : d.pass bytes = some e) :
    stepDecoder bytes keep s = .next { s with decoder := some (keep e) } := by
  simp [stepDecoder, running, passed]

/-- Settles O50: a legal form is the step that passes its bytes, and the cursor passes them where they stand or arrive, nowhere else. -/
theorem fieldFormsMoveTheCursor : Obligations.FieldFormsMoveTheCursor := by
  intro i s d field wf running
  rw [isFieldForm_eq, decide_eq_true_eq] at field
  obtain ⟨keep, same_frames, run⟩ := exec_of_fieldForm field
  have run := (run s).trans (if_pos wf)
  refine ⟨fun no_level => ?_, fun f outer at_level => ⟨fun here => ?_, fun at_end => ?_, fun not_here not_at_end => ?_⟩⟩
  · have passed : d.pass (encode i).bytes = some { d with frames := [⟨(encode i).bytes, (encode i).bytes.length, []⟩] } := by
      simp [DecoderWork.pass, no_level]
    exact ⟨_, run.trans (stepDecoder_of_pass running passed), same_frames _⟩
  · exact ⟨_, run.trans (stepDecoder_of_pass running (pass_standing at_level _ here)), same_frames _⟩
  · have passed := pass_arriving at_level _ (encode_ne_nil i) at_end
    exact ⟨_, run.trans (stepDecoder_of_pass running passed), same_frames _⟩
  · rw [run, stepDecoder, running, Option.getD_some, pass_elsewhere at_level _ not_here not_at_end]

end Sys2Proof.Proofs
end

section
/-! Steps, resets and host reads: the statements of one operation (R12, R18, R28, R29). -/

namespace Sys2Proof.Proofs

open Sys2Proof.Machine Sys2Proof.Safety

/-- Settles O5, clause by clause of the step. -/
theorem stepRunsTheDecodedInstruction : Obligations.StepRunsTheDecodedInstruction := by
  refine ⟨fun s r rest i pending ok => ?_, fun s r rest why pending rejected => ?_, fun s idle => ?_⟩
  · simp only [step, pending, ok]
  · simp only [step, pending, rejected]
  · simp only [step, idle]

/-! ## Host reads -/

theorem hostRead_of_holdsValue {s : State} {r : Reg} (held : holdsValue s r = true) : hostRead s r = .ok (regValue s r) :=
  if_pos held

theorem hostRead_of_not_holdsValue {s : State} {r : Reg} (not_held : holdsValue s r = false) :
    hostRead s r = .error .noValue :=
  if_neg (by simp [not_held])

theorem hostReset_idle {s : State} (no_build : s.framer = none) (no_decoding : s.decoder = none) :
    hostReset s = .next { State.reset with params := s.params, inbox := s.inbox } := by
  simp [hostReset, no_build, no_decoding]

/-- Settles O6: a reset between operations is taken, and every register but the valid bits and `ERR` is behind a bit that it clears. -/
theorem resetLeavesNoValue : Obligations.ResetLeavesNoValue := by
  refine ⟨fun s no_build no_decoding => ?_, rfl⟩
  refine ⟨_, hostReset_idle no_build no_decoding, rfl, rfl, rfl, rfl, rfl, rfl, rfl, rfl, ?_⟩
  intro r not_cv not_rv not_fv not_hit not_err
  apply hostRead_of_not_holdsValue
  cases r with
  | CV => exact absurd rfl not_cv
  | RV => exact absurd rfl not_rv
  | FV => exact absurd rfl not_fv
  | HIT => exact absurd rfl not_hit
  | ERR => exact absurd rfl not_err
  | _ => rfl

/-! ## The flags -/

theorem okayFlag_eq_decide (r : ResponseRegs) : okayFlag r = decide (r.sw1 = 0x90 ∧ r.sw2 = 0x00) := by
  rw [Bool.decide_and]
  rfl

theorem moreFlag_eq_decide (r : ResponseRegs) : moreFlag r = decide (r.sw1 = 0x61) := rfl

/-- `OKAY` wants `SW1` = 0x90 where `MORE` wants 0x61 (R18). -/
theorem moreFlag_eq_false_of_okayFlag {r : ResponseRegs} (okay : okayFlag r = true) : moreFlag r = false := by
  rw [okayFlag_eq_decide, decide_eq_true_eq] at okay
  rw [moreFlag_eq_decide, okay.1]
  rfl

/-- Settles O25: the two answers are `OKAY` and, while `MORE`, the count. -/
theorem okayAndMoreNeverBoth : Obligations.OkayAndMoreNeverBoth := by
  rintro s t u n okay_runs avail_runs ⟨okay, avail⟩
  obtain ⟨-, rfl⟩ := exec_rspOkay_next okay_runs
  obtain ⟨-, rfl⟩ := exec_rspAvail_next avail_runs
  simp only [finish_outcome, Option.some.injEq, OpOutcome.done.injEq, Result.okay.injEq] at okay
  simp [availAnswer, moreFlag_eq_false_of_okayFlag okay] at avail

/-- Settles O54: a read answers exactly while the valid bit of the register's group is set. -/
theorem hostReadsNeedTheValidBit : Obligations.HostReadsNeedTheValidBit := by
  intro s
  have command (r) (mem : r ∈ [Reg.CLA, .INS, .P1, .P2, .PLEN, .PBUF, .FMODE, .PKTN, .PKTQ]) :
      holdsValue s r = s.cmd.cv := by
    revert r
    simp [holdsValue]
  have response (r) (mem : r ∈ [Reg.DATA, .DLEN, .SW1, .SW2, .OKAY, .MORE, .AVAIL]) : holdsValue s r = s.rsp.rv := by
    revert r
    simp [holdsValue]
  refine ⟨fun cv => ?_, fun cv r mem => ?_, fun rv => ?_, fun rv => ⟨fun r mem => ?_, ?_, ?_⟩, fun fv => ?_,
    fun fv => ⟨?_, ?_, fun key => ?_⟩, fun hit => ?_, fun hit => ?_, rfl, rfl, rfl, rfl, rfl⟩
  · simp [hostRead, holdsValue, regValue, cv]
  · exact hostRead_of_not_holdsValue ((command r mem).trans cv)
  · simp [hostRead, holdsValue, regValue, rv, okayFlag_eq_decide, moreFlag_eq_decide, availCount]
  · exact hostRead_of_not_holdsValue ((response r mem).trans rv)
  · simp [exec, execRspOkay, rv]
  · simp [exec, execRspAvail, rv]
  · exact ⟨hostRead_of_holdsValue fv, hostRead_of_holdsValue fv⟩
  · exact hostRead_of_not_holdsValue fv
  · exact hostRead_of_not_holdsValue fv
  · simp [exec, execTlvFind, fv]
  · exact hostRead_of_holdsValue hit
  · exact hostRead_of_not_holdsValue hit

end Sys2Proof.Proofs
end

section
/-! The encodings (R46 to R66): decoding what the encoder writes, form by form, and what the decoder's answers are. -/

namespace Sys2Proof.Proofs

open Sys2Proof.Machine Sys2Proof.Safety

/-! ## Fields that carry a number -/

theorem lowByte_toNat_of_le {n : Nat} (fits : n ≤ 255) : (lowByte n).toNat = n := by
  rw [lowByte_toNat]
  omega

theorem bigEndian_toNat_of_le {n : Nat} (fits : n ≤ 65535) : (bigEndian (highByte n) (lowByte n)).toNat = n := by
  rw [bigEndian_toNat, highByte_toNat, lowByte_toNat]
  omega

theorem bigEndian_of_half (key : Half) : bigEndian (highByte key.toNat) (lowByte key.toNat) = key :=
  BitVec.eq_of_toNat_eq (bigEndian_toNat_of_le (Nat.le_of_lt_succ key.isLt))

theorem decodeFlag_flagByte (flag : Bool) : decodeFlag (flagByte flag) = .ok flag := by
  cases flag <;> rfl

/-! ## Packets -/

theorem decodeChained_shortPacket (cla ins p1 p2 : Byte) {block : Bytes} (fits : fitsFinal block = true) :
    decodeChained true (shortPacket cla ins p1 p2 block) = .ok (.pktFinal cla ins p1 p2 block) := by
  have announced : (lowByte block.length).toNat = block.length :=
    lowByte_toNat_of_le ((of_decide_eq_true fits).trans (by decide))
  simp [shortPacket_eq, decodeChained, announced, fits]

theorem decodeChained_chainPacket (ins p1 p2 : Byte) {block : Bytes} (full : fitsChain block = true) :
    decodeChained false (chainPacket ins p1 p2 block) = .ok (.pktChain ins p1 p2 block) := by
  have length : block.length = 254 := of_decide_eq_true full
  simp [chainPacket_eq, decodeChained, length]

theorem longPacket_eq (cla ins p1 p2 : Byte) (payload : Bytes) :
    longPacket cla ins p1 p2 payload =
      [cla, ins, p1, p2, 0x00, highByte payload.length, lowByte payload.length] ++ payload := rfl

/-- A one-byte length of 0 is no marker, because no byte follows it (R54). -/
theorem decodeExtended_shortPacket (cla ins p1 p2 : Byte) {payload : Bytes} (fits : fitsExt1 payload = true) :
    decodeExtended (shortPacket cla ins p1 p2 payload) = .ok (.pktExt1 cla ins p1 p2 payload) := by
  have announced : (lowByte payload.length).toNat = payload.length := lowByte_toNat_of_le (of_decide_eq_true fits)
  have no_marker : ¬ (lowByte payload.length = Config.extMark ∧ payload ≠ []) := by
    rintro ⟨zero, some_byte⟩
    rw [zero] at announced
    exact some_byte (List.length_eq_zero_iff.mp announced.symm)
  rw [shortPacket_eq]
  exact (if_neg no_marker).trans (if_pos announced.symm)

theorem decodeExtended_longPacket (cla ins p1 p2 : Byte) {payload : Bytes} (fits : fitsExt3 payload = true) :
    decodeExtended (longPacket cla ins p1 p2 payload) = .ok (.pktExt3 cla ins p1 p2 payload) := by
  obtain ⟨-, within⟩ := of_decide_eq_true fits
  have announced := bigEndian_toNat_of_le within
  simp [longPacket_eq, decodeExtended, announced, -bigEndian_toNat]

/-! ## Replies and status pairs -/

@[simp] theorem splitReply_append (data : Bytes) (sw1 sw2 : Byte) :
    splitReply (data ++ [sw1, sw2]) = some (data, sw1, sw2) := by
  simp [splitReply]

theorem classifyStatus_of_other {sw1 sw2 : Byte} (other : (!isOkPair sw1 sw2 && !isMorePair sw1) = true) :
    classifyStatus sw1 sw2 = .swOther sw1 sw2 := by
  rw [Bool.and_eq_true, Bool.not_eq_true', Bool.not_eq_true'] at other
  simp [classifyStatus, other]

theorem wellFormed_classifyStatus (sw1 sw2 : Byte) : (classifyStatus sw1 sw2).wellFormed = true := by
  unfold classifyStatus
  split
  · rfl
  next not_ok =>
    split
    · rfl
    next not_more => simp [Instr.wellFormed, not_ok, not_more]

theorem isShortLength_of_isBadLength {l0 : Byte} (bad : isBadLength l0 = true) : isShortLength l0 = false := by
  simp only [isBadLength, Bool.and_eq_true, Bool.not_eq_true'] at bad
  exact bad.1.1

/-! ## Decode of encode -/

/-- Settles O2, form by form: the length fields of the packets, the key's two bytes and the flag are read back as the numbers written. -/
theorem decodeOfEncodeIsIdentity : Obligations.DecodeOfEncodeIsIdentity := by
  intro i wf
  cases i with
  | tlvOne buf flag =>
    change (decodeFlag (flagByte flag)).map (Instr.tlvOne buf) = _
    rw [decodeFlag_flagByte]
    rfl
  | tlvList buf flag =>
    change (decodeFlag (flagByte flag)).map (Instr.tlvList buf) = _
    rw [decodeFlag_flagByte]
    rfl
  | tlvFind key => exact congrArg (fun k => Except.ok (Instr.tlvFind k)) (bigEndian_of_half key)
  | pktFinal cla ins p1 p2 block => exact decodeChained_shortPacket cla ins p1 p2 wf
  | pktChain ins p1 p2 block => exact decodeChained_chainPacket ins p1 p2 wf
  | pktExt1 cla ins p1 p2 payload => exact decodeExtended_shortPacket cla ins p1 p2 wf
  | pktExt3 cla ins p1 p2 payload => exact decodeExtended_longPacket cla ins p1 p2 wf
  | rpl data sw1 sw2 => simp [decode, encode, decodeReply]
  | swOther sw1 sw2 => exact congrArg Except.ok (classifyStatus_of_other wf)
  | tag1 b0 => exact if_neg (by simpa [Instr.wellFormed] using wf)
  | tag2 b0 b1 =>
    obtain ⟨two, good⟩ := Bool.and_eq_true_iff.mp wf
    exact (if_neg (by simp [two])).trans (if_neg (by simpa using good))
  | tagBad b0 b1 =>
    obtain ⟨two, bad⟩ := Bool.and_eq_true_iff.mp wf
    exact (if_neg (by simp [two])).trans (if_pos bad)
  | lenShort l0 => exact if_pos wf
  | lenBad l0 => exact (if_neg (by simp [isShortLength_of_isBadLength wf])).trans (if_pos wf)
  | _ => rfl

/-! ## Decoded forms -/

theorem wellFormed_of_decodeChained {last : Bool} {bytes : Bytes} {i : Instr} (h : decodeChained last bytes = .ok i) :
    i.wellFormed = true := by
  unfold decodeChained at h
  split at h
  next cla ins p1 p2 lc block =>
    split at h
    · cases h
    next announced =>
      split at h
      · split at h
        next fits => cases h; exact fits
        · cases h
      · split at h
        next full =>
          cases h
          rw [full.2] at announced
          exact decide_eq_true (not_not.mp announced)
        · cases h
  · cases h
  · cases h

theorem wellFormed_of_decodeReply {bytes : Bytes} {i : Instr} (h : decodeReply bytes = .ok i) : i.wellFormed = true := by
  unfold decodeReply at h
  split at h <;> cases h
  rfl

theorem wellFormed_of_decodeStatus {bytes : Bytes} {i : Instr} (h : decodeStatus bytes = .ok i) :
    i.wellFormed = true := by
  match bytes with
  | [] | [_] | _ :: _ :: _ :: _ => cases h
  | [sw1, sw2] => cases h; exact wellFormed_classifyStatus sw1 sw2

theorem wellFormed_of_decodeTagField {bytes : Bytes} {i : Instr} (h : decodeTagField bytes = .ok i) :
    i.wellFormed = true := by
  unfold decodeTagField at h
  split at h
  · cases h
  next b0 =>
    split at h
    · cases h
    next one => cases h; simpa [Instr.wellFormed] using one
  next b0 b1 =>
    split at h
    · cases h
    next two =>
      split at h
      next bad => cases h; simpa [Instr.wellFormed, bad] using two
      next good => cases h; simpa [Instr.wellFormed, good] using two
  · cases h

theorem wellFormed_of_decodeLenField {bytes : Bytes} {i : Instr} (h : decodeLenField bytes = .ok i) :
    i.wellFormed = true := by
  unfold decodeLenField at h
  split at h
  · cases h
  next l0 =>
    split at h
    next short => cases h; exact short
    · split at h
      next bad => cases h; exact bad
      · cases h
  next l0 l1 =>
    split at h
    · cases h; rfl
    · split at h <;> cases h
  next l0 l1 l2 =>
    split at h <;> cases h
    rfl
  · cases h

theorem wellFormed_of_decodeFill {bytes : Bytes} {i : Instr} (h : decodeFill bytes = .ok i) : i.wellFormed = true := by
  unfold decodeFill at h
  split at h
  · cases h
  next b =>
    split at h
    · cases h; rfl
    · split at h <;> cases h
      rfl
  · cases h

/-- Settles O4, space by space: each form is answered behind the test that its rule states. -/
theorem decodedFormsAreWellFormed : Obligations.DecodedFormsAreWellFormed := by
  rintro ⟨space, bytes⟩ i not_op not_extended h
  cases space with
  | op => exact absurd rfl not_op
  | extended => exact absurd rfl not_extended
  | chained last => exact wellFormed_of_decodeChained h
  | reply => exact wellFormed_of_decodeReply h
  | status => exact wellFormed_of_decodeStatus h
  | tag => exact wellFormed_of_decodeTagField h
  | len => exact wellFormed_of_decodeLenField h
  | fill => exact wellFormed_of_decodeFill h

/-- Settles O1: each word is closed, so the decoder runs on it. -/
theorem sampleWordsDecode : Obligations.SampleWordsDecode := by
  unfold Obligations.SampleWordsDecode
  decide

end Sys2Proof.Proofs
end

section
/-! The wire forms as steps: packet forms of the build in flight (R48 to R52), reply and status forms as `RSP.PARSE` of that reply (R55,
R56), tag, length and filler forms of the decoding in flight (R58 to R66), legal and illegal. -/

namespace Sys2Proof.Proofs

open Sys2Proof.Machine Sys2Proof.Safety

/-! ## Packet forms -/

/-- Settles O19: a packet form asks the length of its slice alone, and is the step of the build in flight. -/
theorem packetFormsAppendTheirPacket : Obligations.PacketFormsAppendTheirPacket := by
  rintro cla ins p1 p2 d s w rfl
  refine ⟨fun fits => ?_, fun long => ?_, fun full => ?_, fun other => ?_, fun fits => ?_, fun long => ?_,
    fun fits => ?_, fun outside => ?_⟩
  · exact if_pos (decide_eq_true fits)
  · exact if_neg (by simpa [fitsFinal] using long)
  · exact if_pos (decide_eq_true full)
  · exact if_neg (by simpa [fitsChain] using other)
  · exact if_pos (decide_eq_true fits)
  · exact if_neg (by simpa [fitsExt1] using long)
  · exact if_pos (decide_eq_true fits)
  · exact if_neg (by simpa [fitsExt3, imp_iff_not_or] using outside)

/-! ## Reply and status forms -/

theorem exceeds_eq_false {n : Nat} {bound : Option Nat} (fits : ∀ m, bound = some m → n ≤ m) :
    exceeds n bound = false := by
  cases bound with
  | none => rfl
  | some m => exact decide_eq_false (Nat.not_lt.mpr (fits m rfl))

/-- The parse of a reply written as data and status (R55, R77). -/
theorem parse_append {s : State} {data : Bytes} (sw1 sw2 : Byte)
    (fits : ∀ m, s.params.rbufMax = some m → data.length + 2 ≤ m) :
    parse (data ++ [sw1, sw2]) s = .next (finish (.response data sw1 sw2) (writeResponse data sw1 sw2 s)) := by
  have within : exceeds (data ++ [sw1, sw2]).length s.params.rbufMax = false :=
    exceeds_eq_false (by simpa using fits)
  rw [parse, within, splitReply_append]
  rfl

theorem okPair_or_morePair_iff (sw1 sw2 : Byte) :
    (isOkPair sw1 sw2 || isMorePair sw1) = true ↔ (sw1 = 0x90 ∧ sw2 = 0x00) ∨ sw1 = 0x61 := by
  simp [isOkPair, isMorePair]

/-- Settles O26: each form is the parse of its reply, and the flags are functions of the status written. -/
theorem replyFormsWriteTheResponse : Obligations.ReplyFormsWriteTheResponse := by
  intro s data a b n fits after
  have pair_fits : ∀ m, s.params.rbufMax = some m → ([] : Bytes).length + 2 ≤ m := fun m bound =>
    (Nat.le_add_left 2 data.length).trans (fits m bound)
  refine ⟨parse_append a b fits, ⟨parse_append 0x90 0x00 pair_fits, rfl, rfl⟩,
    ⟨parse_append 0x61 n pair_fits, rfl, rfl, rfl⟩, fun not_ok not_more => ⟨?_, ?_, ?_⟩, fun known => ?_⟩
  · have other : ¬ (isOkPair a b || isMorePair a) = true := by
      rw [okPair_or_morePair_iff]
      exact fun known => known.elim not_ok not_more
    exact (if_neg other).trans (parse_append a b pair_fits)
  · exact (okayFlag_eq_decide _).trans (decide_eq_false not_ok)
  · exact (moreFlag_eq_decide _).trans (decide_eq_false not_more)
  · exact if_pos ((okPair_or_morePair_iff a b).mpr known)

/-! ## Tag and length forms -/

theorem isShortLength_iff (l0 : Byte) : isShortLength l0 = true ↔ l0.toNat < 0x80 := decide_eq_true_iff

theorem isBadLength_iff (l0 : Byte) : isBadLength l0 = true ↔ l0.toNat = 0x80 ∨ 0x83 ≤ l0.toNat := by
  simp only [isBadLength, isShortLength, Bool.and_eq_true, Bool.not_eq_true', decide_eq_false_iff_not, bne_iff_ne,
    ne_eq, ← BitVec.toNat_inj]
  change (¬ l0.toNat < 128 ∧ ¬ l0.toNat = 129) ∧ ¬ l0.toNat = 130 ↔ _
  omega

section
variable (s : State)

theorem exec_tag1 {b0 : Byte} (one : lowFiveSet b0 = false) :
    exec (.tag1 b0) s =
      stepDecoder [b0] (fun d => { d with tag := oneByteTag b0, constructed := isConstructed b0 }) s :=
  if_neg (by simp [one])

theorem exec_tag2 {b0 b1 : Byte} (two : lowFiveSet b0 = true) (good : lowFiveSet b1 = false) :
    exec (.tag2 b0 b1) s =
      stepDecoder [b0, b1] (fun d => { d with tag := twoByteTag b0 b1, constructed := isConstructed b0 }) s :=
  if_pos (by simp [two, good])

theorem exec_lenShort {l0 : Byte} (short : isShortLength l0 = true) :
    exec (.lenShort l0) s = stepDecoder [l0] (fun d => { d with length := zext16 l0 }) s :=
  if_pos short

theorem exec_lenOne (l1 : Byte) :
    exec (.lenOne l1) s = stepDecoder [Config.lenOne, l1] (fun d => { d with length := zext16 l1 }) s := rfl

theorem exec_lenTwo (l1 l2 : Byte) :
    exec (.lenTwo l1 l2) s =
      stepDecoder [Config.lenTwo, l1, l2] (fun d => { d with length := bigEndian l1 l2 }) s := rfl

end

/-- Settles O53: the tests by which the forms are told apart, as numbers, and each form is refused where its test fails. -/
theorem noFormIsTakenForAnother : Obligations.NoFormIsTakenForAnother := by
  intro s a b
  refine ⟨fun two => ?_, fun not_two_good => ?_, fun not_two_bad => ?_, fun long => ?_, fun legal => ?_⟩
  · exact if_pos ((lowFiveSet_iff a).mpr two)
  · refine if_neg ?_
    rw [Bool.and_eq_true, Bool.not_eq_true', lowFiveSet_iff, lowFiveSet_eq_false_iff]
    omega
  · refine if_neg ?_
    rw [Bool.and_eq_true, lowFiveSet_iff, lowFiveSet_iff]
    omega
  · refine if_neg ?_
    rw [isShortLength_iff]
    omega
  · refine if_neg ?_
    rw [isBadLength_iff]
    rcases legal with short | rfl | rfl
    · omega
    · decide
    · decide

/-! ## From idle -/

theorem zext16_eq_ofNat (b : Byte) : zext16 b = BitVec.ofNat 16 b.toNat := (BitVec.ofNat_toNat 16 b).symm

theorem bigEndian_eq_ofNat (hi lo : Byte) : bigEndian hi lo = BitVec.ofNat 16 (hi.toNat * 256 + lo.toNat) := by
  rw [← bigEndian_toNat, BitVec.ofNat_toNat, BitVec.setWidth_eq]

theorem twoByteTag_eq_ofNat (b0 b1 : Byte) :
    twoByteTag b0 b1 = BitVec.ofNat 16 (b0.toNat * 256 + b1.toNat % 128) := by
  rw [← twoByteTag_toNat, BitVec.ofNat_toNat, BitVec.setWidth_eq]

/-- With no decoding in flight a field form opens one at depth 0 on its own bytes. -/
theorem stepDecoder_idle {s : State} (idle : s.decoder = none) (bytes : Bytes) (keep : DecoderWork → DecoderWork) :
    stepDecoder bytes keep s =
      .next { s with
        decoder := some (keep { DecoderWork.opened with frames := [⟨bytes, bytes.length, []⟩] }) } := by
  rw [stepDecoder, idle]
  rfl

/-- Settles O49, form by form; the fields kept are those of the steps, as numbers. -/
theorem fieldFormsRunFromIdle : Obligations.FieldFormsRunFromIdle := by
  intro s a b idle
  refine ⟨fun one => ?_, fun two good => ?_, fun short => ?_, ?_, ?_, stepDecoder_idle idle _ id,
    stepDecoder_idle idle _ id⟩
  · rw [exec_tag1 s ((lowFiveSet_eq_false_iff a).mpr one), stepDecoder_idle idle, oneByteTag, zext16_eq_ofNat,
      isConstructed_eq_getLsbD]
    rfl
  · rw [exec_tag2 s ((lowFiveSet_iff a).mpr two) ((lowFiveSet_eq_false_iff b).mpr good), stepDecoder_idle idle,
      twoByteTag_eq_ofNat, isConstructed_eq_getLsbD]
    rfl
  · rw [exec_lenShort s ((isShortLength_iff a).mpr short), stepDecoder_idle idle, zext16_eq_ofNat]
    rfl
  · rw [exec_lenOne, stepDecoder_idle idle, zext16_eq_ofNat]
    rfl
  · rw [exec_lenTwo, stepDecoder_idle idle, bigEndian_eq_ofNat]
    rfl

/-! ## At the cursor of a decoding in flight -/

theorem drop_eq_one_byte {s : Bytes} {pos : Nat} {b0 : Byte} (h0 : s[pos]? = some b0) :
    s.drop pos = [b0] ++ s.drop (pos + 1) := by
  obtain ⟨within, rfl⟩ := List.getElem?_eq_some_iff.mp h0
  exact List.drop_eq_getElem_cons within

theorem drop_eq_two_bytes {s : Bytes} {pos : Nat} {b0 b1 : Byte} (h0 : s[pos]? = some b0) (h1 : s[pos + 1]? = some b1) :
    s.drop pos = [b0, b1] ++ s.drop (pos + 2) := by
  rw [drop_eq_one_byte h0, drop_eq_one_byte h1]
  rfl

theorem drop_eq_three_bytes {s : Bytes} {pos : Nat} {b0 b1 b2 : Byte} (h0 : s[pos]? = some b0)
    (h1 : s[pos + 1]? = some b1) (h2 : s[pos + 2]? = some b2) : s.drop pos = [b0, b1, b2] ++ s.drop (pos + 3) := by
  rw [drop_eq_two_bytes h0 h1, drop_eq_one_byte h2]
  rfl

/-- A form whose bytes stand at the cursor runs as the step that passes them. -/
theorem stepDecoder_standing {s : State} {d : DecoderWork} {f : Frame} {outer : List Frame} (running : s.decoder = some d)
    (at_level : d.frames = f :: outer) {bytes after : Bytes} (here : f.slice.drop f.pos = bytes ++ after)
    (keep : DecoderWork → DecoderWork) :
    stepDecoder bytes keep s =
      .next { s with decoder := some (keep { d with frames := { f with pos := f.pos + bytes.length } :: outer }) } :=
  stepDecoder_of_pass running (pass_standing at_level bytes ⟨after, here⟩)

/-- Settles O51: where a step answers, the bytes it read are those of a form that decodes, and they stand at the cursor. -/
theorem fieldFormsAgreeWithTheSteps : Obligations.FieldFormsAgreeWithTheSteps := by
  intro s d f outer running at_level
  constructor
  · intro tag c pos answered
    obtain ⟨b0, h0, rfl, ⟨one, rfl, rfl⟩ | ⟨two, b1, h1, good, rfl, rfl⟩⟩ := decodeTag_ok answered
    · have here := drop_eq_one_byte h0
      refine ⟨.tag1 b0, ?_, ?_⟩
      · simp [here, decode, decodeTagField, one]
      · rw [exec_tag1 s one, stepDecoder_standing running at_level here]
        rfl
    · have here := drop_eq_two_bytes h0 h1
      refine ⟨.tag2 b0 b1, ?_, ?_⟩
      · simp [here, decode, decodeTagField, two, good]
      · rw [exec_tag2 s two good, stepDecoder_standing running at_level here]
        rfl
  · intro length pos answered
    obtain ⟨l0, h0, ⟨short, rfl, rfl⟩ | ⟨rfl, l1, h1, rfl, rfl⟩ | ⟨rfl, l1, l2, h1, h2, rfl, rfl⟩⟩ := decodeLen_ok answered
    · have here := drop_eq_one_byte h0
      refine ⟨.lenShort l0, ?_, ?_⟩
      · simp [here, decode, decodeLenField, short]
      · rw [exec_lenShort s short, stepDecoder_standing running at_level here]
        rfl
    · have here := drop_eq_two_bytes h0 h1
      refine ⟨.lenOne l1, ?_, ?_⟩
      · simp [here, decode, decodeLenField]
      · rw [exec_lenOne, stepDecoder_standing running at_level here]
        rfl
    · have here := drop_eq_three_bytes h0 h1 h2
      refine ⟨.lenTwo l1 l2, ?_, ?_⟩
      · simp [here, decode, decodeLenField]
      · rw [exec_lenTwo, stepDecoder_standing running at_level here]
        rfl

/-- Bytes that a decoding can meet next are passed by the cursor (R25 (b)). -/
theorem pass_of_atCursor {s : State} {bytes : Bytes} (some_byte : bytes ≠ []) (met : AtCursor s bytes) :
    ∃ e, (s.decoder.getD DecoderWork.opened).pass bytes = some e := by
  cases running : s.decoder with
  | none => exact ⟨_, rfl⟩
  | some d =>
    rw [Option.getD_some]
    cases at_level : d.frames with
    | nil => simp [DecoderWork.pass, at_level]
    | cons f outer =>
      rcases met d f outer running at_level with at_end | here
      · exact ⟨_, pass_arriving at_level bytes some_byte at_end⟩
      · exact ⟨_, pass_standing at_level bytes here⟩

theorem stepDecoderRaise_of_atCursor {s : State} {bytes : Bytes} (some_byte : bytes ≠ []) (met : AtCursor s bytes)
    (kind : FaultKind) : stepDecoderRaise bytes kind s = .next (raise kind s) := by
  obtain ⟨e, passed⟩ := pass_of_atCursor some_byte met
  rw [stepDecoderRaise, passed]

/-- Settles O52: an illegal form that is met is fault entry. -/
theorem illegalFormsRaise : Obligations.IllegalFormsRaise := by
  intro s b0 b1 l0
  refine ⟨fun two bad met => ?_, fun bad met => ?_, rfl, rfl⟩
  · refine (if_pos ?_).trans (stepDecoderRaise_of_atCursor (List.cons_ne_nil _ _) met .badTagExtension)
    rw [Bool.and_eq_true, lowFiveSet_iff, lowFiveSet_iff]
    exact ⟨two, bad⟩
  · exact (if_pos ((isBadLength_iff l0).mpr bad)).trans
      (stepDecoderRaise_of_atCursor (List.cons_ne_nil _ _) met .badLength)

end Sys2Proof.Proofs
end

section
/-! Decoding with more bytes behind (R66, R83 to R85, R89): a step or an object that answers reads nothing behind its own bytes, so filler
there makes no difference to a forest; and what a lookup can find in a decoded forest (R67, R91). -/

namespace Sys2Proof.Proofs

open Sys2Proof.Machine Sys2Proof.Safety

/-! ## The steps of one object -/

theorem readByte_append_of_ok {buf : Bytes} {i : Nat} {b : Byte} (h : readByte buf i = .ok b) (after : Bytes) :
    readByte (buf ++ after) i = .ok b := by
  obtain ⟨within, at_i⟩ := readByte_ok h
  rw [readByte, List.getElem?_append_left within, at_i]

/-- A step of a decoding answers as another does when its first part does, and the rest of it on that answer. -/
theorem bind_ok_of_bind_ok {α β : Type} {x x' : Except Stop α} {f f' : α → Except Stop β} {r : β}
    (h : (x >>= f) = .ok r) (first : ∀ a, x = .ok a → x' = .ok a) (then_rest : ∀ a, f a = .ok r → f' a = .ok r) :
    (x' >>= f') = .ok r := by
  obtain ⟨a, ok, rest⟩ := bind_ok h
  rw [first a ok]
  exact then_rest a rest

theorem decodeTag_append_of_ok {buf : Bytes} {pos : Nat} {r : Half × Bool × Nat} (h : decodeTag buf pos = .ok r)
    (after : Bytes) : decodeTag (buf ++ after) pos = .ok r := by
  refine bind_ok_of_bind_ok h (fun b0 first => readByte_append_of_ok first after) fun b0 rest => ?_
  split at rest
  next two =>
    rw [if_pos two]
    exact bind_ok_of_bind_ok rest (fun b1 second => readByte_append_of_ok second after) fun _ answer => answer
  next one => rwa [if_neg one]

theorem decodeLen_append_of_ok {buf : Bytes} {pos : Nat} {r : Half × Nat} (h : decodeLen buf pos = .ok r)
    (after : Bytes) : decodeLen (buf ++ after) pos = .ok r := by
  refine bind_ok_of_bind_ok h (fun l0 first => readByte_append_of_ok first after) fun l0 rest => ?_
  split at rest
  next short => rwa [if_pos short]
  next not_short =>
    rw [if_neg not_short]
    split at rest
    next one =>
      rw [if_pos one]
      exact bind_ok_of_bind_ok rest (fun l1 second => readByte_append_of_ok second after) fun _ answer => answer
    next not_one =>
      rw [if_neg not_one]
      split at rest
      next two =>
        rw [if_pos two]
        exact bind_ok_of_bind_ok rest (fun l1 second => readByte_append_of_ok second after) fun l1 rest =>
          bind_ok_of_bind_ok rest (fun l2 third => readByte_append_of_ok third after) fun _ answer => answer
      · cases rest

theorem takeValue_append_of_ok {buf : Bytes} {pos : Nat} {length : Half} {r : Bytes × Nat}
    (h : takeValue buf pos length = .ok r) (after : Bytes) : takeValue (buf ++ after) pos length = .ok r := by
  refine bind_ok_of_bind_ok h (fun value read => ?_) fun _ answer => answer
  obtain ⟨within, rfl, -⟩ := memRead_ok read
  have fits : pos + length.toNat ≤ (buf ++ after).length := by
    rw [List.length_append]
    omega
  rw [memRead, if_pos fits, List.drop_append_of_le_length (by omega),
    List.take_append_of_le_length (by rw [List.length_drop]; omega)]

/-- An object that decodes is the same object with more bytes behind it, and they are left behind its remainder, or dropped with the rest
as `TAIL` says (R84). -/
theorem decodeOne_append_of_ok {p : Config.Params} {flag : Bool} {depth : Nat} {buf remainder : Bytes} {node : Node}
    (h : decodeOne p flag depth buf = .ok (node, remainder)) :
    (∀ after, decodeOne p flag depth (buf ++ after) = .ok (node, remainder ++ after)) ∨
      ∀ after, decodeOne p flag depth (buf ++ after) = .ok (node, remainder) := by
  obtain ⟨c, p1, p2, p3, tagStep, lenStep, valueStep, result⟩ := decodeOneWith_ok h
  have longer (after : Bytes) : decodeOne p flag depth (buf ++ after) = _ :=
    decodeOneWith_of_steps (decodeTag_append_of_ok tagStep after) (decodeLen_append_of_ok lenStep after)
      (takeValue_append_of_ok valueStep after) (decodeList p flag (depth + 1)) p flag depth
  obtain ⟨within, -, -, next_eq⟩ := takeValue_ok valueStep
  have left (after : Bytes) : (buf ++ after).drop p3 = buf.drop p3 ++ after :=
    List.drop_append_of_le_length (next_eq ▸ within)
  obtain ⟨tag, length, value, subs⟩ := node
  rcases result with ⟨plain, rfl, rfl⟩ | ⟨rec, shallow, decoded, rfl⟩
  · exact .inl fun after => by simp [longer, plain, left]
  · cases tail : p.tail with
    | keep => exact .inl fun after => by simp [longer, rec, shallow, decoded, left, tail, Except.map]
    | drop => exact .inr fun after => by simp [longer, rec, shallow, decoded, tail, Except.map]

/-! ## Filler -/

theorem isFiller_iff (b : Byte) : isFiller b = true ↔ b = 0x00 ∨ b = 0xFF := by
  simp [isFiller]

theorem decodeList_filler_append (p : Config.Params) (flag : Bool) (depth : Nat) {filler : Bytes}
    (is_filler : ∀ b ∈ filler, b = 0x00 ∨ b = 0xFF) (buf : Bytes) :
    decodeList p flag depth (filler ++ buf) = decodeList p flag depth buf := by
  induction filler with
  | nil => rfl
  | cons b rest ih =>
    obtain ⟨first, others⟩ := List.forall_mem_cons.mp is_filler
    rw [List.cons_append, decodeList_filler p flag depth ((isFiller_iff b).mpr first), ih others]

theorem map_ok {α β : Type} {x : Except Stop α} {f : α → β} {b : β} (h : x.map f = .ok b) : ∃ a, x = .ok a := by
  cases x with
  | error e => cases h
  | ok a => exact ⟨a, rfl⟩

/-- Behind a buffer that decodes, two endings that decode alike are alike, by induction over the buffer: a filler byte is skipped in
front of both, and an object leaves both behind its remainder or neither. -/
theorem decodeList_append_congr {p : Config.Params} {flag : Bool} {depth : Nat} {buf x y : Bytes} {f : Forest}
    (h : decodeList p flag depth buf = .ok f) (alike : decodeList p flag depth x = decodeList p flag depth y) :
    decodeList p flag depth (buf ++ x) = decodeList p flag depth (buf ++ y) := by
  match buf with
  | [] => exact alike
  | b :: rest =>
    cases fill : isFiller b with
    | true =>
      rw [decodeList_filler p flag depth fill] at h
      rw [List.cons_append, List.cons_append, decodeList_filler p flag depth fill, decodeList_filler p flag depth fill]
      exact decodeList_append_congr h alike
    | false =>
      rw [decodeList_object p flag depth fill] at h
      obtain ⟨⟨node, remainder⟩, one, more⟩ := bind_ok h
      obtain ⟨nodes, remainder_decodes⟩ := map_ok more
      obtain ⟨-, -, shorter, -⟩ := decodeOneWith_good one
      rw [List.cons_append, List.cons_append, decodeList_object p flag depth fill, decodeList_object p flag depth fill,
        ← List.cons_append, ← List.cons_append]
      rcases decodeOne_append_of_ok one with kept | dropped
      · have ih := decodeList_append_congr remainder_decodes alike
        rw [kept x, kept y]
        exact congrArg (Except.map node.before) ih
      · rw [dropped x, dropped y]
termination_by buf.length
decreasing_by all_goals (simp only [List.length_cons] at *; omega)

/-- Settles O38: filler in front is skipped, and behind a buffer that decodes it is alike to nothing. -/
theorem fillerBetweenObjectsIsSkipped : Obligations.FillerBetweenObjectsIsSkipped := by
  intro p flag depth filler buf more is_filler
  refine ⟨decodeList_filler_append p flag depth is_filler buf, fun f h => ⟨?_, ?_⟩⟩
  · have skipped := decodeList_append_congr h (decodeList_filler_append p flag depth is_filler [])
    rwa [List.append_nil, List.append_nil, h] at skipped
  · rw [List.append_assoc]
    exact decodeList_append_congr h (decodeList_filler_append p flag depth is_filler more)

/-! ## Lookup -/

/-- Settles O48: what is found carries the key, and every node of a decoded forest carries a producible tag. -/
theorem unproducibleKeyIsNeverFound : Obligations.UnproducibleKeyIsNeverFound := by
  intro p flag buf f key decoded unproducible
  refine Option.eq_none_iff_forall_ne_some.mpr fun n found => ?_
  obtain ⟨rfl, wf⟩ := findIn_some found (decodeList_wf decoded)
  obtain ⟨⟨-, producible, -⟩, -⟩ := (wfForest_before n .nil).mp wf
  rw [unproducible] at producible
  cases producible

end Sys2Proof.Proofs
end

section
/-! The framer's operations (R71 to R76): both builds as register updates, the packets they write as bytes, that the packets' payload
slices rejoin, and that the packet forms run one by one write the build. -/

namespace Sys2Proof.Proofs

open Sys2Proof.Machine Sys2Proof.Safety

/-! ## Both builds as one register update -/

theorem build_of_le (m : Bool) (cla ins p1 p2 : Byte) {payload : Bytes} (fits : payload.length ≤ 65535) (s : State) :
    build m cla ins p1 p2 payload s =
      .next (finish (.packets (frame m cla ins p1 p2 payload))
        (writeCommand m cla ins p1 p2 payload (frame m cla ins p1 p2 payload) s)) :=
  if_pos fits

theorem build_of_lt (m : Bool) (cla ins p1 p2 : Byte) {payload : Bytes} (long : 65535 < payload.length) (s : State) :
    build m cla ins p1 p2 payload s = .refused .payloadTooLong :=
  if_neg (Nat.not_le.mpr long)

/-! ## The packets of either build as bytes -/

/-- The packet list of `FRM.BUILD` written out; the final length byte is R73's `r`. -/
theorem frameChained_bytes (cla ins p1 p2 : Byte) (payload : Bytes) :
    frame false cla ins p1 p2 payload =
      (List.range (chainingCount payload.length)).map
        (fun j => [0x10, ins, p1, p2, 0xFE] ++ (payload.drop (254 * j)).take 254) ++
      [[cla, ins, p1, p2, BitVec.ofNat 8 (payload.length - 254 * chainingCount payload.length)] ++
        payload.drop (254 * chainingCount payload.length)] := by
  rw [frameChained_eq, shortPacket_eq, List.length_drop]
  rfl

theorem chainingCount_eq_zero_iff (n : Nat) : chainingCount n = 0 ↔ n ≤ 254 := by
  rw [chainingCount]
  omega

/-- Up to 254 bytes `FRM.BUILD` writes one packet (R71 corner cases (a), (b)). -/
theorem frameChained_of_le (cla ins p1 p2 : Byte) {payload : Bytes} (fits : payload.length ≤ 254) :
    frame false cla ins p1 p2 payload = [shortPacket cla ins p1 p2 payload] := by
  rw [frameChained_eq, (chainingCount_eq_zero_iff _).mpr fits]
  rfl

@[simp] theorem length_frameChained (cla ins p1 p2 : Byte) (payload : Bytes) :
    (frame false cla ins p1 p2 payload).length = chainingCount payload.length + 1 := by
  simp [frameChained_eq]

theorem frameExtended_of_le (cla ins p1 p2 : Byte) {payload : Bytes} (fits : payload.length ≤ 255) :
    frame true cla ins p1 p2 payload = [shortPacket cla ins p1 p2 payload] :=
  if_pos fits

theorem frameExtended_of_lt (cla ins p1 p2 : Byte) {payload : Bytes} (long : 255 < payload.length) :
    frame true cla ins p1 p2 payload = [longPacket cla ins p1 p2 payload] :=
  if_neg (Nat.not_le.mpr long)

/-- There is never a second packet (R72 corner case (f)). -/
@[simp] theorem length_frameExtended (cla ins p1 p2 : Byte) (payload : Bytes) :
    (frame true cla ins p1 p2 payload).length = 1 := by
  rcases Nat.lt_or_ge 255 payload.length with long | fits
  · rw [frameExtended_of_lt cla ins p1 p2 long, List.length_singleton]
  · rw [frameExtended_of_le cla ins p1 p2 fits, List.length_singleton]

/-- Settles O14, by the closed form of the packet list and the one register update of a build. -/
theorem buildWritesTheChainedPackets : Obligations.BuildWritesTheChainedPackets := by
  intro cla ins p1 p2 payload s
  refine ⟨fun fits => ?_, fun long => build_of_lt false cla ins p1 p2 long s⟩
  obtain ⟨-, plen, -, -⟩ := commandInv_writeCommand false cla ins p1 p2 s fits rfl
  exact ⟨_, build_of_le false cla ins p1 p2 fits s, frameChained_bytes cla ins p1 p2 payload, rfl, rfl, rfl, rfl, rfl, rfl, rfl,
    rfl, plen, rfl, rfl, rfl, rfl, rfl, rfl, rfl, rfl, rfl⟩

/-- Settles O15: the two bytes of a long length are the length's high and low byte, and the high one is not 0 over 255. -/
theorem buildxWritesOnePacket : Obligations.BuildxWritesOnePacket := by
  intro cla ins p1 p2 payload s
  refine ⟨fun fits => ?_, fun long => build_of_lt true cla ins p1 p2 long s⟩
  obtain ⟨-, plen, -, -⟩ := commandInv_writeCommand true cla ins p1 p2 s fits rfl
  refine ⟨_, build_of_le true cla ins p1 p2 fits s, fun short => frameExtended_of_le cla ins p1 p2 short, fun long => ?_,
    length_frameExtended cla ins p1 p2 payload, rfl, rfl, rfl, rfl, rfl, rfl,
    rfl, plen, rfl, rfl, rfl, rfl, rfl, rfl, rfl, rfl, rfl⟩
  have announced := bigEndian_toNat_of_le fits
  rw [bigEndian_toNat] at announced
  refine ⟨highByte payload.length, lowByte payload.length, announced, fun zero => ?_, frameExtended_of_lt cla ins p1 p2 long⟩
  have := (lowByte payload.length).isLt
  rw [zero, show (0 : Byte).toNat = 0 from rfl] at announced
  omega

/-- Settles O18: up to 254 bytes both write the packet with a one-byte length; beyond, `FRM.BUILD` writes a second packet. -/
theorem buildsAgreeUpTo254 : Obligations.BuildsAgreeUpTo254 := by
  intro cla ins p1 p2 payload
  refine ⟨fun fits => ?_, fun long same => ?_⟩
  · rw [frameChained_of_le cla ins p1 p2 fits, frameExtended_of_le cla ins p1 p2 (fits.trans (by decide))]
  · have one_packet := congrArg List.length same
    rw [length_frameChained, length_frameExtended, Nat.add_eq_right, chainingCount_eq_zero_iff] at one_packet
    omega

/-! ## The payload slices rejoin -/

/-- The first `m` blocks of `size` bytes, one after the other, are the bytes before the one at `size * m`. -/
theorem flatMap_blocks (s : Bytes) (size m : Nat) :
    (List.range m).flatMap (fun j => (s.drop (size * j)).take size) = s.take (size * m) := by
  induction m with
  | zero => rfl
  | succ m ih => rw [List.range_succ, List.flatMap_append, ih, List.flatMap_singleton, Nat.mul_succ, List.take_add]

@[simp] theorem drop_five_chainPacket (ins p1 p2 : Byte) (block : Bytes) : (chainPacket ins p1 p2 block).drop 5 = block := rfl

@[simp] theorem drop_five_shortPacket (cla ins p1 p2 : Byte) (block : Bytes) :
    (shortPacket cla ins p1 p2 block).drop 5 = block := rfl

/-- Each byte of the payload stands in exactly one packet of `FRM.BUILD` (R75). -/
theorem frameChained_slices (cla ins p1 p2 : Byte) (payload : Bytes) :
    (frame false cla ins p1 p2 payload).flatMap (fun p => p.drop 5) = payload := by
  rw [frameChained_eq, List.flatMap_append, List.flatMap_map, List.flatMap_singleton]
  simp only [drop_five_chainPacket, drop_five_shortPacket, flatMap_blocks, List.take_append_drop]

/-- Settles O16: the slices of `FRM.BUILD` are blocks that rejoin, and `FRM.BUILDX` writes the one packet of its form. -/
theorem payloadSlicesRejoin : Obligations.PayloadSlicesRejoin := by
  intro cla ins p1 p2 payload s t
  refine ⟨fun taken => ?_, fun taken => ?_⟩
  · obtain ⟨-, rfl⟩ := build_next taken
    exact ⟨rfl, frameChained_slices cla ins p1 p2 payload, fun fits => frameChained_of_le cla ins p1 p2 fits⟩
  · obtain ⟨within, rfl⟩ := build_next taken
    refine ⟨rfl, ?_⟩
    rcases Nat.lt_or_ge 255 payload.length with long | fits
    · have announced := bigEndian_toNat_of_le within
      rw [bigEndian_toNat] at announced
      exact ⟨_, frameExtended_of_lt cla ins p1 p2 long, rfl, fun fits => absurd long (Nat.not_lt.mpr fits),
        fun _ => ⟨rfl, rfl, announced⟩⟩
    · exact ⟨_, frameExtended_of_le cla ins p1 p2 fits, rfl, fun _ => ⟨rfl, lowByte_toNat_of_le fits⟩,
        fun long => absurd long (Nat.not_lt.mpr fits)⟩

/-! ## The build, packet by packet -/

theorem execAll_cons {i : Instr} {forms : List Instr} {s t : State} (taken : exec i s = .next t) :
    execAll (i :: forms) s = execAll forms t := by
  rw [execAll, taken]

theorem execAll_append {forms more : List Instr} {s t : State} (first : execAll forms s = .next t) :
    execAll (forms ++ more) s = execAll more t := by
  induction forms generalizing s with
  | nil => cases first; rfl
  | cons i forms ih =>
    cases taken : exec i s with
    | next u =>
      rw [execAll_cons taken] at first
      rw [List.cons_append, execAll_cons taken, ih first]
    | fault r => rw [execAll, taken] at first; cases first
    | refused r => rw [execAll, taken] at first; cases first

/-- The packets and `k` of the build in flight, or of one that has just begun (R25 (a)). -/
def inFlight (s : State) : FramerWork := s.framer.getD FramerWork.opened

/-- A build with one more packet written and appended; `k` counts the chaining ones (R71). -/
def withPacket (chaining : Bool) (p : Bytes) (w : FramerWork) : FramerWork :=
  { k := if chaining then w.k + 1 else w.k, packets := w.packets ++ [p], packet := p }

theorem exec_pktChain (ins p1 p2 : Byte) {block : Bytes} (full : block.length = 254) (s : State) :
    exec (.pktChain ins p1 p2 block) s =
      .next { s with framer := some (withPacket true (chainPacket ins p1 p2 block) (inFlight s)) } :=
  if_pos (decide_eq_true full)

theorem exec_pktFinal (cla ins p1 p2 : Byte) {block : Bytes} (fits : block.length ≤ 254) (s : State) :
    exec (.pktFinal cla ins p1 p2 block) s =
      .next { s with framer := some (withPacket false (shortPacket cla ins p1 p2 block) (inFlight s)) } :=
  if_pos (decide_eq_true fits)

/-- `PKT.CHAIN` for each full block in turn: `Q` grows by their packets, `k` by their number (R25 (a)), and nothing else changes. -/
theorem execAll_pktChain (ins p1 p2 : Byte) {blocks : List Bytes} (full : ∀ b ∈ blocks, b.length = 254) (s : State) :
    ∃ t, execAll (blocks.map (Instr.pktChain ins p1 p2)) s = .next t ∧ t = { s with framer := t.framer } ∧
      (inFlight t).packets = (inFlight s).packets ++ blocks.map (chainPacket ins p1 p2) ∧
      (inFlight t).k = (inFlight s).k + blocks.length := by
  induction blocks generalizing s with
  | nil => exact ⟨s, rfl, rfl, (List.append_nil _).symm, rfl⟩
  | cons b blocks ih =>
    rw [List.forall_mem_cons] at full
    obtain ⟨b_full, blocks_full⟩ := full
    obtain ⟨t, rest, kept, packets, k⟩ := ih blocks_full
      { s with framer := some (withPacket true (chainPacket ins p1 p2 b) (inFlight s)) }
    refine ⟨t, ?_, kept, ?_, ?_⟩
    · rw [List.map_cons, execAll_cons (exec_pktChain ins p1 p2 b_full s), rest]
    · rw [packets, List.map_cons, List.append_cons]
      rfl
    · rw [k, List.length_cons, Nat.add_comm blocks.length, ← Nat.add_assoc]
      rfl

/-- Every block of R73's count is full: more bytes follow it. -/
theorem length_chainBlock {payload : Bytes} {j : Nat} (in_range : j < chainingCount payload.length) :
    ((payload.drop (254 * j)).take 254).length = 254 := by
  rw [chainingCount] at in_range
  rw [List.length_take, List.length_drop]
  omega

/-- What R73's count of blocks leaves fits the final packet. -/
theorem length_lastBlock (payload : Bytes) : (payload.drop (254 * chainingCount payload.length)).length ≤ 254 := by
  rw [List.length_drop, chainingCount]
  omega

/-- Settles O20: the forms append the packets of the closed form of `FRM.BUILD`'s list, and `k` counts the chaining ones. -/
theorem packetFormsWriteTheBuild : Obligations.PacketFormsWriteTheBuild := by
  intro cla ins p1 p2 payload s t idle taken
  obtain ⟨-, rfl⟩ := build_next taken
  have opened : inFlight s = FramerWork.opened := by rw [inFlight, idle]; rfl
  obtain ⟨u, chained, kept, packets, k⟩ := execAll_pktChain ins p1 p2 (s := s)
    (blocks := (List.range (chainingCount payload.length)).map fun j => (payload.drop (254 * j)).take 254)
    (List.forall_mem_map.mpr fun j mem => length_chainBlock (List.mem_range.mp mem))
  have last := exec_pktFinal cla ins p1 p2 (length_lastBlock payload) u
  rw [List.map_map] at chained packets
  rw [opened] at packets k
  rw [List.length_map, List.length_range] at k
  refine ⟨_, _, (execAll_append chained).trans (execAll_cons last), rfl, ?_, k.trans (Nat.add_comm ..), ?_⟩
  · exact (congrArg (· ++ _) packets).trans (frameChained_eq cla ins p1 p2 payload).symm
  · rw [kept]

end Sys2Proof.Proofs
end

section
/-! The reply splitter's operations (R77 to R79): a reply rejoins from data and status or is too short, and the two questions about the
status answer without writing a register. -/

namespace Sys2Proof.Proofs

open Sys2Proof.Machine Sys2Proof.Safety

/-! ## `RSP.PARSE` -/

theorem exists_eq_append_status {raw : Bytes} (two_bytes : 2 ≤ raw.length) :
    ∃ data sw1 sw2, raw = data ++ [sw1, sw2] := by
  have status_length : (raw.drop (raw.length - 2)).length = 2 := by
    rw [List.length_drop]
    omega
  obtain ⟨sw1, sw2, status⟩ := List.length_eq_two.mp status_length
  exact ⟨raw.take (raw.length - 2), sw1, sw2, by rw [← status, List.take_append_drop]⟩

theorem splitReply_of_lt {raw : Bytes} (short : raw.length < 2) : splitReply raw = none := if_pos short

/-- The parse of a reply with no room for the status pair is fault entry (R77, R98). -/
theorem parse_of_lt {s : State} {raw : Bytes} (fits : ∀ m, s.params.rbufMax = some m → raw.length ≤ m)
    (short : raw.length < 2) : parse raw s = .next (raise .tooShortReply s) := by
  rw [parse, exceeds_eq_false fits, splitReply_of_lt short]
  rfl

/-- Settles O21: a reply of two bytes or more is some data before a status pair, and its parse writes these. -/
theorem parseSplitsTheReply : Obligations.ParseSplitsTheReply := by
  intro raw s fits
  refine ⟨fun two_bytes => ?_, fun short => parse_of_lt fits short⟩
  obtain ⟨data, sw1, sw2, rfl⟩ := exists_eq_append_status two_bytes
  have length : (data ++ [sw1, sw2]).length = data.length + 2 := List.length_append
  rw [length] at fits ⊢
  exact ⟨_, parse_append sw1 sw2 fits, rfl, rfl, rfl, rfl, rfl, rfl, rfl, rfl, rfl, rfl, rfl, rfl⟩

/-! ## `RSP.OKAY` and `RSP.AVAIL` -/

section
variable {s : State}

theorem exec_rspOkay_of_rv (rv : s.rsp.rv = true) : exec .rspOkay s = .next (finish (.okay (okayFlag s.rsp)) s) := if_pos rv

theorem exec_rspOkay_of_not_rv (no_reply : s.rsp.rv = false) : exec .rspOkay s = .refused .noResponse :=
  if_neg (by simp [no_reply])

theorem exec_rspAvail_of_rv (rv : s.rsp.rv = true) : exec .rspAvail s = .next (finish (.avail (availAnswer s.rsp)) s) := if_pos rv

theorem exec_rspAvail_of_not_rv (no_reply : s.rsp.rv = false) : exec .rspAvail s = .refused .noResponse :=
  if_neg (by simp [no_reply])

end

/-- The answer of `RSP.AVAIL` is `AVAIL` while `SW1` is 0x61 (R79). -/
theorem availAnswer_eq_ite (r : ResponseRegs) : availAnswer r = if r.sw1 = 0x61 then some r.sw2 else none := by
  simp [availAnswer, moreFlag_eq_decide, availCount]

/-- Settles O23: the answer is the flag `OKAY`, and a query that ends writes no register. -/
theorem okayAnswersTheStatus : Obligations.OkayAnswersTheStatus := by
  refine fun s => ⟨fun rv => ?_, exec_rspOkay_of_not_rv⟩
  rw [exec_rspOkay_of_rv rv, okayFlag_eq_decide]
  rfl

/-- Settles O24: the answer is the flag `AVAIL` behind the test of `MORE`, and a query that ends writes no register. -/
theorem availAnswersTheCount : Obligations.AvailAnswersTheCount := by
  refine fun s => ⟨fun rv => ?_, exec_rspAvail_of_not_rv⟩
  rw [exec_rspAvail_of_rv rv, availAnswer_eq_ite]
  rfl

end Sys2Proof.Proofs
end

section
/-! The three steps of one object at every cursor (R81 to R83): what each answers, read off the bytes that stand there. -/

namespace Sys2Proof.Proofs

open Sys2Proof.Machine Sys2Proof.Safety

theorem readByte_of_some {buf : Bytes} {i : Nat} {b : Byte} (h : buf[i]? = some b) : readByte buf i = .ok b := by
  rw [readByte, h]

theorem readByte_of_none {buf : Bytes} {i : Nat} (h : buf[i]? = none) : readByte buf i = .error (.raise .truncated) := by
  rw [readByte, h]

/-- The second tag byte is read exactly when the first one's low five bits are all set (R81). -/
theorem decodeTag_of_first {buf : Bytes} {pos : Nat} {b0 : Byte} (h0 : buf[pos]? = some b0) :
    decodeTag buf pos =
      if lowFiveSet b0 then
        readByte buf (pos + 1) >>= fun b1 =>
          if lowFiveSet b1 then .error (.raise .badTagExtension)
          else .ok (twoByteTag b0 b1, isConstructed b0, pos + 2)
      else .ok (oneByteTag b0, isConstructed b0, pos + 1) := by
  rw [decodeTag, readByte_of_some h0]
  rfl

/-- Settles O27: the first byte alone decides whether a second is read, and the second whether the tag is legal. -/
theorem tagStep : Obligations.TagStep := by
  intro buf pos
  refine ⟨fun none0 => ?_, fun b0 h0 one => ?_, fun b0 h0 two none1 => ?_, fun b0 b1 h0 two h1 bad => ?_,
    fun b0 b1 h0 two h1 good => ?_⟩
  · rw [decodeTag, readByte_of_none none0]
    rfl
  · rw [decodeTag_of_first h0, (lowFiveSet_eq_false_iff b0).mpr one, oneByteTag, zext16_eq_ofNat,
      isConstructed_eq_getLsbD]
    rfl
  · rw [decodeTag_of_first h0, (lowFiveSet_iff b0).mpr two, readByte_of_none none1]
    rfl
  · rw [decodeTag_of_first h0, (lowFiveSet_iff b0).mpr two, readByte_of_some h1]
    exact if_pos ((lowFiveSet_iff b1).mpr bad)
  · rw [decodeTag_of_first h0, (lowFiveSet_iff b0).mpr two, readByte_of_some h1, ← twoByteTag_eq_ofNat,
      ← isConstructed_eq_getLsbD]
    exact if_neg (ne_true_of_eq_false ((lowFiveSet_eq_false_iff b1).mpr good))

/-- A legal length byte is of the short form or one of the two marks; every other one is decided by itself (R82). -/
theorem decodeLen_of_first {buf : Bytes} {pos : Nat} {l0 : Byte} (h0 : buf[pos]? = some l0) :
    decodeLen buf pos =
      if isShortLength l0 then .ok (zext16 l0, pos + 1)
      else if l0 = Config.lenOne then readByte buf (pos + 1) >>= fun l1 => .ok (zext16 l1, pos + 2)
      else if l0 = Config.lenTwo then
        readByte buf (pos + 1) >>= fun l1 => readByte buf (pos + 2) >>= fun l2 => .ok (bigEndian l1 l2, pos + 3)
      else .error (.raise .badLength) := by
  rw [decodeLen, readByte_of_some h0]
  rfl

theorem decodeLen_lenOne {buf : Bytes} {pos : Nat} (h0 : buf[pos]? = some 0x81) :
    decodeLen buf pos = readByte buf (pos + 1) >>= fun l1 => .ok (zext16 l1, pos + 2) := decodeLen_of_first h0

theorem decodeLen_lenTwo {buf : Bytes} {pos : Nat} (h0 : buf[pos]? = some 0x82) :
    decodeLen buf pos =
      readByte buf (pos + 1) >>= fun l1 => readByte buf (pos + 2) >>= fun l2 => .ok (bigEndian l1 l2, pos + 3) :=
  decodeLen_of_first h0

theorem decodeLen_bad {buf : Bytes} {pos : Nat} {l0 : Byte} (h0 : buf[pos]? = some l0) (bad : isBadLength l0 = true) :
    decodeLen buf pos = .error (.raise .badLength) := by
  simp only [isBadLength, Bool.and_eq_true, Bool.not_eq_true', bne_iff_ne] at bad
  obtain ⟨⟨long, not_one⟩, not_two⟩ := bad
  rw [decodeLen_of_first h0, if_neg (by simp [long]), if_neg not_one, if_neg not_two]

/-- Settles O28, by the first length byte: the short form, the two marks, and the rest. -/
theorem lengthStep : Obligations.LengthStep := by
  intro buf pos
  refine ⟨fun none0 => ?_, fun l0 h0 short => ?_, fun h0 => ⟨fun none1 => ?_, fun l1 h1 => ?_⟩,
    fun h0 => ⟨fun missing => ?_, fun l1 l2 h1 h2 => ?_⟩, fun l0 h0 bad => ?_⟩
  · rw [decodeLen, readByte_of_none none0]
    rfl
  · rw [decodeLen_of_first h0, if_pos ((isShortLength_iff l0).mpr short), zext16_eq_ofNat]
  · rw [decodeLen_lenOne h0, readByte_of_none none1]
    rfl
  · rw [decodeLen_lenOne h0, readByte_of_some h1, ← zext16_eq_ofNat]
    rfl
  · rw [decodeLen_lenTwo h0]
    cases h1 : buf[pos + 1]? with
    | none =>
      rw [readByte_of_none h1]
      rfl
    | some l1 =>
      rw [readByte_of_some h1, readByte_of_none (missing.resolve_left (by simp [h1]))]
      rfl
  · rw [decodeLen_lenTwo h0, readByte_of_some h1, readByte_of_some h2, ← bigEndian_eq_ofNat]
    rfl
  · exact decodeLen_bad h0 ((isBadLength_iff l0).mpr bad)

/-- Settles O29: a value that stands at the cursor is what the step takes, and where too few bytes are left it takes none. -/
theorem valueStep : Obligations.ValueStep := by
  intro buf pos length within
  refine ⟨fun front value back written at_pos exact_length => ?_, fun short => ?_⟩
  · rw [written, ← at_pos, List.append_assoc]
    exact takeValue_append exact_length front back
  · rw [takeValue, memRead, if_neg (by omega)]
    rfl

end Sys2Proof.Proofs
end

section
/-! One object from its steps (R84, R87): what its fields make of it, whatever follows them, and where a decoding stops. -/

namespace Sys2Proof.Proofs

open Sys2Proof.Machine Sys2Proof.Safety

/-! ## An object from its fields -/

theorem tooDeep_eq_false {p : Config.Params} {depth : Nat} (shallow : ∀ m, p.depthMax = some m → depth + 1 ≤ m) :
    tooDeep p depth = false := exceeds_eq_false shallow

theorem tooDeep_iff (p : Config.Params) (depth : Nat) :
    tooDeep p depth = true ↔ ∃ m, p.depthMax = some m ∧ m < depth + 1 := by
  unfold tooDeep exceeds
  cases p.depthMax <;> simp

/-- What a tag field, a length field and a value of that length make of an object, whatever bytes follow (R84). -/
theorem decodeOne_of_fields {tagField lenField value : Bytes} {tag length : Half} {c : Bool}
    (tagStep : decodeTag tagField 0 = .ok (tag, c, tagField.length))
    (lenStep : decodeLen lenField 0 = .ok (length, lenField.length)) (exact_length : value.length = length.toNat)
    (p : Config.Params) (flag : Bool) (depth : Nat) (after : Bytes) :
    decodeOne p flag depth (tagField ++ lenField ++ value ++ after) =
      if c && flag then
        if tooDeep p depth then .error (.raise .depthExceeded)
        else (decodeList p flag (depth + 1) value).map fun subs =>
          (⟨tag, length, value, subs⟩, if p.tail = .drop then [] else after)
      else .ok (⟨tag, length, value, .nil⟩, after) := by
  have tagHere : decodeTag (tagField ++ lenField ++ value ++ after) 0 = .ok (tag, c, tagField.length) := by
    simpa only [List.append_assoc] using decodeTag_append_of_ok tagStep (lenField ++ (value ++ after))
  have lenHere : decodeLen (tagField ++ lenField ++ value ++ after) tagField.length =
      .ok (length, (tagField ++ lenField).length) := by
    have here := decodeLen_append tagField (lenField ++ (value ++ after)) 0
    rw [decodeLen_append_of_ok lenStep] at here
    simpa [Except.map] using here
  have valueHere : takeValue (tagField ++ lenField ++ value ++ after) (tagField ++ lenField).length length =
      .ok (value, (tagField ++ lenField).length + length.toNat) := by
    simpa only [List.append_assoc] using takeValue_append exact_length (tagField ++ lenField) after
  have left : (tagField ++ lenField ++ value ++ after).drop ((tagField ++ lenField).length + length.toNat) = after := by
    rw [← exact_length, ← List.length_append, List.drop_left]
  rw [decodeOne, decodeOneWith_of_steps tagHere lenHere valueHere, left]
  cases p.tail <;> rfl

/-- Settles O30: the four cases are the branches of the object's decoding from its fields. -/
theorem objectDecodes : Obligations.ObjectDecodes := by
  intro p flag depth tagField lenField value after tag length constructed tagStep lenStep exact_length
  have decoded := decodeOne_of_fields tagStep lenStep exact_length p flag depth after
  refine ⟨fun plain => ?_, ?_, ?_, ?_⟩
  · rw [decoded, if_neg]
    rcases plain with rfl | rfl <;> simp
  · rintro rfl rfl shallow subs children
    rw [decoded, tooDeep_eq_false shallow, children]
    rfl
  · rintro rfl rfl shallow k children
    rw [decoded, tooDeep_eq_false shallow, children]
    rfl
  · rintro rfl rfl deep
    rw [decoded, (tooDeep_iff p depth).mpr deep]
    rfl

/-! ## Where an object stops -/

/-- One of the three steps of the object at the start of a buffer is the first to stop, with this stop (R81 to R83, R103). -/
def StepStops (buf : Bytes) (e : Stop) : Prop :=
  decodeTag buf 0 = .error e ∨
    ∃ tag c pos, decodeTag buf 0 = .ok (tag, c, pos) ∧
      (decodeLen buf pos = .error e ∨
        ∃ length pos', decodeLen buf pos = .ok (length, pos') ∧ takeValue buf pos' length = .error e)

theorem decodeOneWith_of_stepStops {buf : Bytes} {e : Stop} (stops : StepStops buf e)
    (children : Bytes → Except Stop Forest) (p : Config.Params) (flag : Bool) (depth : Nat) :
    decodeOneWith children p flag depth buf = .error e := by
  rw [decodeOneWith]
  rcases stops with tagStop | ⟨tag, c, pos, tagStep, lenStop | ⟨length, pos', lenStep, valueStop⟩⟩
  · rw [tagStop]
    rfl
  · simp only [tagStep, lenStop, bind, Except.bind]
  · simp only [tagStep, lenStep, valueStop, bind, Except.bind]

theorem isFiller_eq_false {b : Byte} (not_0x00 : b ≠ 0x00) (not_0xFF : b ≠ 0xFF) : isFiller b = false :=
  Bool.eq_false_iff.mpr fun filler => ((isFiller_iff b).mp filler).elim not_0x00 not_0xFF

/-- The stop of the object a buffer opens with is the stop of the whole (R87). -/
theorem decodeList_of_decodeOne_error {p : Config.Params} {flag : Bool} {depth : Nat} {b : Byte} {rest : Bytes} {e : Stop}
    (object : isFiller b = false) (stops : decodeOne p flag depth (b :: rest) = .error e) :
    decodeList p flag depth (b :: rest) = .error e := by
  rw [decodeList_object p flag depth object, stops]
  rfl

/-- Settles O58: nothing of an object is looked at after the first of its steps that stops. -/
theorem stepFaultIsTheObjectsFault : Obligations.StepFaultIsTheObjectsFault := by
  intro p flag depth buf e stops
  have one : decodeOne p flag depth buf = .error e := decodeOneWith_of_stepStops stops _ p flag depth
  refine ⟨one, fun some_byte not_0x00 not_0xFF => ?_⟩
  obtain ⟨b, rest, rfl⟩ := List.exists_cons_of_ne_nil some_byte
  rw [List.head?_cons, ne_eq, Option.some_inj] at not_0x00 not_0xFF
  exact decodeList_of_decodeOne_error (isFiller_eq_false not_0x00 not_0xFF) one

theorem decodeTag_error {buf : Bytes} {pos : Nat} {e : Stop} (h : decodeTag buf pos = .error e) :
    e = .raise .truncated ∨ e = .raise .badTagExtension := by
  rcases bind_error h with missing | ⟨b0, -, h⟩
  · exact .inl (readByte_error missing)
  split at h
  · rcases bind_error h with missing | ⟨b1, -, h⟩
    · exact .inl (readByte_error missing)
    split at h <;> cases h
    exact .inr rfl
  · cases h

theorem decodeLen_error {buf : Bytes} {pos : Nat} {e : Stop} (h : decodeLen buf pos = .error e) :
    e = .raise .truncated ∨ e = .raise .badLength := by
  rcases bind_error h with missing | ⟨l0, -, h⟩
  · exact .inl (readByte_error missing)
  split at h
  · cases h
  split at h
  · rcases bind_error h with missing | ⟨l1, -, h⟩
    · exact .inl (readByte_error missing)
    · cases h
  split at h
  · rcases bind_error h with missing | ⟨l1, -, h⟩
    · exact .inl (readByte_error missing)
    rcases bind_error h with missing | ⟨l2, -, h⟩
    · exact .inl (readByte_error missing)
    · cases h
  · cases h
    exact .inr rfl

theorem takeValue_error {buf : Bytes} {pos : Nat} {length : Half} {e : Stop} (h : takeValue buf pos length = .error e) :
    e = .raise .truncated := by
  rcases bind_error h with short | ⟨value, -, h⟩
  · unfold memRead at short
    split at short <;> cases short
    rfl
  · cases h

/-- The three steps stop with three of the fault kinds, and never on the counter (R99 to R101). -/
theorem StepStops.kind {buf : Bytes} {e : Stop} (stops : StepStops buf e) :
    e = .raise .truncated ∨ e = .raise .badTagExtension ∨ e = .raise .badLength := by
  rcases stops with tagStop | ⟨_, _, _, -, lenStop | ⟨_, _, -, valueStop⟩⟩
  · exact (decodeTag_error tagStop).imp_right .inl
  · exact (decodeLen_error lenStop).imp_right .inr
  · exact .inl (takeValue_error valueStop)

/-- An object that stops (R84, R87): one of its steps stops, or it is decoded recursively and stands too deep, or its value, which is
shorter than the buffer, stops. -/
theorem decodeOneWith_error {children : Bytes → Except Stop Forest} {p : Config.Params} {flag : Bool} {depth : Nat} {buf : Bytes}
    {e : Stop} (h : decodeOneWith children p flag depth buf = .error e) :
    StepStops buf e ∨
      flag = true ∧ ∃ value, value.length + 2 ≤ buf.length ∧
        (e = .raise .depthExceeded ∧ tooDeep p depth = true ∨ children value = .error e) := by
  rcases bind_error h with tagStop | ⟨⟨tag, c, p1⟩, tagStep, h⟩
  · exact .inl (.inl tagStop)
  rcases bind_error h with lenStop | ⟨⟨length, p2⟩, lenStep, h⟩
  · exact .inl (.inr ⟨tag, c, p1, tagStep, .inl lenStop⟩)
  rcases bind_error h with valueStop | ⟨⟨value, p3⟩, valueStep, h⟩
  · exact .inl (.inr ⟨tag, c, p1, tagStep, .inr ⟨length, p2, lenStep, valueStop⟩⟩)
  obtain ⟨-, shorter⟩ := steps_shorter tagStep lenStep valueStep
  dsimp only at h
  split at h
  next rec =>
    refine .inr ⟨(Bool.and_eq_true_iff.mp rec).2, value, by omega, ?_⟩
    split at h
    next deep => cases h; exact .inl ⟨rfl, deep⟩
    · rcases bind_error h with subs_stop | ⟨subs, -, h⟩
      · exact .inr subs_stop
      · cases h
  · cases h

end Sys2Proof.Proofs
end

section
/-! What the forest decoder answers (R85 to R88, R102, R118): its recursion equations, how many nodes and levels there can be, where a
decoding stops, and how the two values of `TAIL` show in the forest. -/

namespace Sys2Proof.Proofs

open Sys2Proof.Machine Sys2Proof.Safety

/-! ## The pseudocode -/

theorem decodeList_of_decodeOne_ok {p : Config.Params} {flag : Bool} {depth : Nat} {b : Byte} {rest remainder : Bytes}
    {node : Node} (object : isFiller b = false) (one : decodeOne p flag depth (b :: rest) = .ok (node, remainder)) :
    decodeList p flag depth (b :: rest) = (decodeList p flag depth remainder).map node.before := by
  rw [decodeList_object p flag depth object, one]
  rfl

/-- Settles O31: the recursion equations of the decoder, the counter being always enough. -/
theorem forestDecoderMeetsThePseudocode : Obligations.ForestDecoderMeetsThePseudocode := by
  intro p flag depth
  refine ⟨decodeList_nil p flag depth, fun b rest filler => ?_, fun b rest not_0x00 not_0xFF => ?_⟩
  · exact decodeList_filler p flag depth ((isFiller_iff b).mpr filler) rest
  · have object := isFiller_eq_false not_0x00 not_0xFF
    refine ⟨fun e => decodeList_of_decodeOne_error object, fun node remainder one => ⟨fun e more => ?_, fun nodes more => ?_⟩⟩
    · rw [decodeList_of_decodeOne_ok object one, more]
      rfl
    · rw [decodeList_of_decodeOne_ok object one, more]
      rfl

/-! ## Nodes and levels -/

@[simp] theorem count_before (n : Node) (rest : Forest) : (n.before rest).count = 1 + n.subs.count + rest.count := rfl

@[simp] theorem levels_before (n : Node) (rest : Forest) :
    (n.before rest).levels = max (1 + n.subs.levels) rest.levels := rfl

/-- Settles O41, by induction over the decoding: an object takes two bytes besides its value and what it leaves. -/
theorem nodeAndLevelBounds : Obligations.NodeAndLevelBounds := by
  intro p flag depth buf f decodes
  refine decodeList_induction (motive := fun _ buf f => 2 * f.count ≤ buf.length ∧ 2 * f.levels ≤ buf.length)
    (fun _ => ⟨le_rfl, le_rfl⟩) (fun _ _ _ _ _ ih => ?_) ?_ depth buf f decodes
  · rw [List.length_cons]
    omega
  · intro depth buf node remainder nodes one in_subs in_nodes
    obtain ⟨-, -, shorter, children⟩ := decodeOneWith_good one
    have subs_bounds : 2 * node.subs.count ≤ node.value.length ∧ 2 * node.subs.levels ≤ node.value.length := by
      rcases children with ⟨-, no_subs⟩ | ⟨-, subs⟩
      · simp [no_subs, Forest.count, Forest.levels]
      · exact in_subs subs
    rw [count_before, levels_before]
    omega

/-- A decoding that starts within the depth bound answers no node beyond it (R88). -/
theorem decodeList_levels_le {p : Config.Params} {flag : Bool} {depth m : Nat} {buf : Bytes} {f : Forest}
    (bound : p.depthMax = some m) (decodes : decodeList p flag depth buf = .ok f) (within : depth ≤ m) :
    depth + f.levels ≤ m + 1 := by
  refine decodeList_induction (motive := fun depth _ f => depth ≤ m → depth + f.levels ≤ m + 1)
    (fun _ within => Nat.le_succ_of_le within) (fun _ _ _ _ _ ih => ih) ?_ depth buf f decodes within
  intro depth buf node remainder nodes one in_subs in_nodes within
  have subs_within : depth + 1 + node.subs.levels ≤ m + 1 := by
    obtain ⟨c, p1, p2, p3, -, -, -, ⟨-, no_subs, -⟩ | ⟨-, shallow, subs, -⟩⟩ := decodeOneWith_ok one
    · rw [no_subs]
      exact Nat.succ_le_succ within
    · have below : ¬ m < depth + 1 := fun deep => by simp [(tooDeep_iff p depth).mpr ⟨m, bound, deep⟩] at shallow
      exact in_subs subs (Nat.not_lt.mp below)
  have nodes_within := in_nodes within
  rw [levels_before]
  omega

/-! ## Where a decoding stops -/

/-- The induction over a decoding that stops (R87): the stop is that of an object, in which it may be the stop of a shorter value decoded
a level deeper, or it comes later at the same level, behind a filler byte or an object that decodes. -/
theorem decodeList_stop_induction {p : Config.Params} {flag : Bool} {e : Stop} {motive : Nat → Bytes → Prop}
    (object : ∀ depth buf, decodeOne p flag depth buf = .error e →
      (∀ value, value.length + 2 ≤ buf.length → decodeList p flag (depth + 1) value = .error e → motive (depth + 1) value) →
      motive depth buf)
    (later : ∀ depth buf remainder, remainder.length ≤ buf.length → motive depth remainder → motive depth buf)
    (depth : Nat) (buf : Bytes) (stops : decodeList p flag depth buf = .error e) : motive depth buf := by
  match buf with
  | [] => cases stops
  | b :: rest =>
    cases fill : isFiller b with
    | true =>
      rw [decodeList_filler p flag depth fill] at stops
      exact later depth (b :: rest) rest (by simp) (decodeList_stop_induction object later depth rest stops)
    | false =>
      rw [decodeList_object p flag depth fill] at stops
      rcases bind_error stops with one | ⟨⟨node, remainder⟩, one, rest_stops⟩
      · exact object depth (b :: rest) one fun value shorter =>
          decodeList_stop_induction object later (depth + 1) value
      · obtain ⟨-, -, shorter, -⟩ := decodeOneWith_good one
        refine later depth (b :: rest) remainder (by omega)
          (decodeList_stop_induction object later depth remainder ?_)
        cases remainder_stops : decodeList p flag depth remainder with
        | ok nodes => simp [remainder_stops, Except.map] at rest_stops
        | error e' => simpa [remainder_stops, Except.map] using rest_stops
termination_by buf.length
decreasing_by all_goals (simp only [List.length_cons] at *; omega)

/-- The recursion counter is never used up (R86). -/
theorem decodeList_ne_fuel (p : Config.Params) (flag : Bool) (depth : Nat) (buf : Bytes) :
    decodeList p flag depth buf ≠ .error .fuel := by
  refine fun stops => decodeList_stop_induction (motive := fun _ _ => False) ?_ (fun _ _ _ _ ih => ih) depth buf stops
  intro depth buf one in_value
  rcases decodeOneWith_error one with step | ⟨-, value, shorter, ⟨raised, -⟩ | value_stops⟩
  · simpa using step.kind
  · cases raised
  · exact in_value value shorter value_stops

theorem decodeOne_ne_fuel (p : Config.Params) (flag : Bool) (depth : Nat) (buf : Bytes) :
    decodeOne p flag depth buf ≠ .error .fuel := by
  intro stops
  rcases decodeOneWith_error stops with step | ⟨-, value, -, ⟨raised, -⟩ | value_stops⟩
  · simpa using step.kind
  · cases raised
  · exact decodeList_ne_fuel p flag (depth + 1) value value_stops

/-- `DepthExceeded` takes the recursive flag, a finite depth bound, and two bytes for each level beyond it (R88, R102). -/
theorem decodeList_depthExceeded {p : Config.Params} {flag : Bool} {depth : Nat} {buf : Bytes}
    (stops : decodeList p flag depth buf = .error (.raise .depthExceeded)) :
    flag = true ∧ ∃ m, p.depthMax = some m ∧ m < depth + buf.length / 2 := by
  refine decodeList_stop_induction
    (motive := fun depth buf => flag = true ∧ ∃ m, p.depthMax = some m ∧ m < depth + buf.length / 2) ?_ ?_ depth buf stops
  · intro depth buf one in_value
    rcases decodeOneWith_error one with step | ⟨recursive, value, shorter, ⟨-, deep⟩ | value_stops⟩
    · simpa using step.kind
    · obtain ⟨m, bound, beyond⟩ := (tooDeep_iff p depth).mp deep
      exact ⟨recursive, m, bound, by omega⟩
    · obtain ⟨-, m, bound, beyond⟩ := in_value value shorter value_stops
      exact ⟨recursive, m, bound, by omega⟩
  · rintro depth buf remainder shorter ⟨recursive, m, bound, beyond⟩
    exact ⟨recursive, m, bound, by omega⟩

/-- Settles O42: no node stands beyond the bound, and what `DepthExceeded` takes is missing in each of the three cases. -/
theorem depthBound : Obligations.DepthBound := by
  intro p flag buf
  refine ⟨fun m f bound decodes => ?_, fun unbounded_or_flat stops => ?_, fun m bound enough stops => ?_⟩
  · simpa using decodeList_levels_le bound decodes (Nat.zero_le m)
  · obtain ⟨recursive, m, bound, -⟩ := decodeList_depthExceeded stops
    rcases unbounded_or_flat with unbounded | no_flag
    · simp [unbounded] at bound
    · simp [no_flag] at recursive
  · obtain ⟨-, m', bound', beyond⟩ := decodeList_depthExceeded stops
    rw [bound, Option.some_inj] at bound'
    omega

/-! ## The two values of `TAIL` -/

@[simp] theorem constructedLast_before (n : Node) (rest : Forest) :
    constructedLast (n.before rest) = true ↔
      ((tagConstructed n.tag = true → rest = .nil) ∧ constructedLast n.subs = true) ∧ constructedLast rest = true := by
  simp [Node.before, constructedLast, imp_iff_not_or]

theorem decodeOne_nil (p : Config.Params) (flag : Bool) (depth : Nat) :
    decodeOne p flag depth [] = .error (.raise .truncated) := rfl

/-- Settles O43, by induction over the decoding: a constructed object leaves nothing, and of nothing no node is decoded. -/
theorem dropEndsAtTheConstructedObject : Obligations.DropEndsAtTheConstructedObject := by
  intro p depth buf f drop decodes
  refine (decodeList_induction (motive := fun _ buf f => (buf = [] → f = .nil) ∧ constructedLast f = true)
    (fun _ => ⟨fun _ => rfl, rfl⟩) (fun _ _ _ _ _ ih => ⟨nofun, ih.2⟩) ?_ depth buf f decodes).2
  rintro depth buf node remainder nodes one in_subs ⟨none_left, nodes_last⟩
  obtain ⟨c, p1, p2, p3, tagStep, -, -, result⟩ := decodeOneWith_ok one
  obtain ⟨-, -, rfl⟩ := decodeTag_good tagStep
  rw [Bool.and_true, drop] at result
  refine ⟨fun empty => ?_, (constructedLast_before node nodes).mpr ⟨?_, nodes_last⟩⟩
  · rw [empty, decodeOne_nil] at one
    cases one
  · rcases result with ⟨primitive, no_subs, -⟩ | ⟨-, -, subs, nothing⟩
    · exact ⟨by simp [primitive], by rw [no_subs]; rfl⟩
    · exact ⟨fun _ => none_left nothing, (in_subs subs).2⟩

/-- Under `KEEP` an object that decodes recursively decodes flat as well, without its children, and leaves the same bytes (R84). -/
theorem decodeOne_flat_of_keep {p : Config.Params} (keep : p.tail = .keep) {depth : Nat} {buf remainder : Bytes} {node : Node}
    (one : decodeOne p true depth buf = .ok (node, remainder)) :
    decodeOne p false depth buf = .ok ({ node with subs := .nil }, remainder) := by
  obtain ⟨c, p1, p2, p3, tagStep, lenStep, valueStep, result⟩ := decodeOneWith_ok one
  have left : remainder = buf.drop p3 := by
    rw [keep] at result
    rcases result with ⟨-, -, left⟩ | ⟨-, -, -, left⟩ <;> exact left
  rw [decodeOne, decodeOneWith_of_steps tagStep lenStep valueStep, Bool.and_false, left]
  rfl

/-- What the spec asks of the top-level objects alone: tag, length and value (95_test_vectors.md section 4 (g)). -/
def topFields (f : Forest) : List (Half × Half × Bytes) := f.toList.map fun n => (n.tag, n.length, n.value)

@[simp] theorem topFields_before (n : Node) (rest : Forest) :
    topFields (n.before rest) = (n.tag, n.length, n.value) :: topFields rest := rfl

/-- Under `KEEP` what decodes recursively decodes flat into the same top-level objects, by induction over the buffer. -/
theorem decodeList_flat_of_keep {p : Config.Params} (keep : p.tail = .keep) {depth : Nat} {buf : Bytes} {f : Forest}
    (decodes : decodeList p true depth buf = .ok f) :
    ∃ g, decodeList p false depth buf = .ok g ∧ topFields g = topFields f := by
  match buf with
  | [] => cases decodes; exact ⟨.nil, rfl, rfl⟩
  | b :: rest =>
    cases fill : isFiller b with
    | true =>
      rw [decodeList_filler p true depth fill] at decodes
      rw [decodeList_filler p false depth fill]
      exact decodeList_flat_of_keep keep decodes
    | false =>
      rw [decodeList_object p true depth fill] at decodes
      obtain ⟨⟨node, remainder⟩, one, more⟩ := bind_ok decodes
      obtain ⟨nodes, remainder_decodes⟩ := map_ok more
      obtain ⟨-, -, shorter, -⟩ := decodeOneWith_good one
      obtain ⟨g, flat_decodes, same⟩ := decodeList_flat_of_keep keep remainder_decodes
      refine ⟨Node.before { node with subs := .nil } g, ?_, ?_⟩
      · rw [decodeList_of_decodeOne_ok fill (decodeOne_flat_of_keep keep one), flat_decodes]
        rfl
      · rw [remainder_decodes] at more
        cases more
        simp [same]
termination_by buf.length
decreasing_by all_goals (simp only [List.length_cons] at *; omega)

/-- Settles O44. -/
theorem keptRecursiveDecodingIsFlatDecoding : Obligations.KeptRecursiveDecodingIsFlatDecoding :=
  fun _ _ _ keep decodes => decodeList_flat_of_keep keep decodes

end Sys2Proof.Proofs
end

section
/-! The decoding operations (R84 to R87): what `TLV.ONE` and `TLV.LIST` write, that both complete on primitive objects written out, and
that no step stops the machine. -/

namespace Sys2Proof.Proofs

open Sys2Proof.Machine Sys2Proof.Safety

/-! ## `TLV.ONE` and `TLV.LIST` as their decodings -/

theorem endDecoding_ok {s : State} {forest : Forest} (remainder : Bytes) (result : Result)
    (fits : ∀ n, s.params.nodeMax = some n → forest.count ≤ n) :
    endDecoding s (.ok (forest, remainder, result)) = .next (finish result (writeForest forest remainder s)) := by
  rw [endDecoding, exceeds_eq_false fits]
  rfl

section
variable {s : State} {buf : Bytes} (fits : ∀ n, s.params.ibufMax = some n → buf.length ≤ n)
include fits

theorem exec_tlvOne_of_fits (flag : Bool) :
    exec (.tlvOne buf flag) s =
      endDecoding s ((decodeOne s.params flag 0 buf).map fun r => (r.1.alone, r.2, Result.one r.1 r.2)) :=
  if_neg (by simp [exceeds_eq_false fits])

theorem exec_tlvList_of_fits (flag : Bool) :
    exec (.tlvList buf flag) s =
      endDecoding s ((decodeList s.params flag 0 buf).map fun nodes => (nodes, [], Result.forest nodes)) :=
  if_neg (by simp [exceeds_eq_false fits])

end

/-- Settles O32: the operation ends as the object's decoding does. -/
theorem tlvOneWritesTheNode : Obligations.TlvOneWritesTheNode := by
  intro buf flag s fits
  rw [exec_tlvOne_of_fits fits]
  refine ⟨fun node remainder one few_nodes => ?_, fun k stops => ?_⟩
  · rw [one]
    exact endDecoding_ok (forest := node.alone) remainder (.one node remainder) few_nodes
  · rw [stops]
    rfl

/-- Settles O33: the operation ends as the forest's decoding does. -/
theorem tlvListWritesTheForest : Obligations.TlvListWritesTheForest := by
  intro buf flag s fits
  rw [exec_tlvList_of_fits fits]
  refine ⟨fun nodes decoded few_nodes => ?_, fun k stops => ?_⟩
  · rw [decoded]
    exact endDecoding_ok [] (.forest nodes) few_nodes
  · rw [stops]
    rfl

/-! ## Primitive objects written out -/

/-- A primitive object with a one-byte tag and a short length is its node, and the bytes after it are left (R83, R84). -/
theorem decodeOne_primitive {b0 : Byte} {value : Bytes} (one_byte : b0.toNat % 32 ≠ 31) (primitive : b0.getLsbD 5 = false)
    (short : value.length ≤ 127) (p : Config.Params) (flag : Bool) (depth : Nat) (after : Bytes) :
    decodeOne p flag depth (b0 :: BitVec.ofNat 8 value.length :: value ++ after) =
      .ok (⟨BitVec.ofNat 16 b0.toNat, BitVec.ofNat 16 value.length, value, .nil⟩, after) := by
  have length_byte : (BitVec.ofNat 8 value.length).toNat = value.length := lowByte_toNat_of_le (by omega)
  have tagStep : decodeTag [b0] 0 = .ok (BitVec.ofNat 16 b0.toNat, false, 1) := by
    rw [decodeTag_of_first (b0 := b0) rfl, (lowFiveSet_eq_false_iff b0).mpr one_byte, isConstructed_eq_getLsbD, primitive,
      ← zext16_eq_ofNat]
    rfl
  have lenStep : decodeLen [BitVec.ofNat 8 value.length] 0 = .ok (BitVec.ofNat 16 value.length, 1) := by
    rw [decodeLen_of_first (l0 := BitVec.ofNat 8 value.length) rfl, if_pos ((isShortLength_iff _).mpr (by omega)),
      zext16_eq_ofNat, length_byte]
  have exact_length : value.length = (BitVec.ofNat 16 value.length).toNat := by
    rw [BitVec.toNat_ofNat]
    omega
  exact decodeOne_of_fields tagStep lenStep exact_length p flag depth after

/-- Primitive objects one after the other are the forest of their nodes, by induction on the objects (R85). -/
theorem decodeList_primitives {objects : List (Byte × Bytes)}
    (primitive : ∀ o ∈ objects, o.1.toNat % 32 ≠ 31 ∧ o.1.getLsbD 5 = false ∧ o.1 ≠ 0x00 ∧ o.2.length ≤ 127)
    (p : Config.Params) (flag : Bool) (depth : Nat) :
    decodeList p flag depth (objects.flatMap fun o => o.1 :: BitVec.ofNat 8 o.2.length :: o.2) =
      .ok (objects.foldr
        (fun o f => Forest.cons (BitVec.ofNat 16 o.1.toNat) (BitVec.ofNat 16 o.2.length) o.2 .nil f) .nil) := by
  induction objects with
  | nil => rfl
  | cons o others ih =>
    obtain ⟨⟨one_byte, no_children, not_0x00, short⟩, others_primitive⟩ := List.forall_mem_cons.mp primitive
    have not_0xFF : o.1 ≠ 0xFF := by
      intro fill
      simp [fill] at one_byte
    have one := decodeOne_primitive one_byte no_children short p flag depth
      (others.flatMap fun o => o.1 :: BitVec.ofNat 8 o.2.length :: o.2)
    rw [List.flatMap_cons, List.foldr_cons]
    exact (decodeList_of_decodeOne_ok (isFiller_eq_false not_0x00 not_0xFF) one).trans
      (by rw [ih others_primitive]; rfl)

/-- Settles O34: the decodings of primitive objects, and no capacity bounds them. -/
theorem primitiveObjectsDecode : Obligations.PrimitiveObjectsDecode := by
  intro s flag unbounded_buf unbounded_nodes
  refine ⟨fun objects primitive => ?_, fun b0 value after one_byte primitive short => ?_⟩
  · exact (tlvListWritesTheForest _ flag s (by simp [unbounded_buf])).1 _
      (decodeList_primitives primitive s.params flag 0) (by simp [unbounded_nodes])
  · exact (tlvOneWritesTheNode _ flag s (by simp [unbounded_buf])).1 _ _
      (decodeOne_primitive one_byte primitive short s.params flag 0 after) (by simp [unbounded_nodes])

/-! ## No step stops the machine -/

section
variable {s : State} (f : Fault)

theorem ite_ne_fault {c : Prop} [Decidable c] {x y : Host.Outcome State Fault Refusal} (hx : x ≠ .fault f) (hy : y ≠ .fault f) :
    (if c then x else y) ≠ .fault f := by
  split
  · exact hx
  · exact hy

theorem build_ne_fault (m : Bool) (cla ins p1 p2 : Byte) (payload : Bytes) : build m cla ins p1 p2 payload s ≠ .fault f :=
  ite_ne_fault f nofun nofun

theorem parse_ne_fault (raw : Bytes) : parse raw s ≠ .fault f := by
  refine ite_ne_fault f nofun ?_
  split <;> nofun

theorem stepDecoder_ne_fault (bytes : Bytes) (keep : DecoderWork → DecoderWork) : stepDecoder bytes keep s ≠ .fault f := by
  unfold stepDecoder
  split <;> nofun

theorem stepDecoderRaise_ne_fault (bytes : Bytes) (kind : FaultKind) : stepDecoderRaise bytes kind s ≠ .fault f := by
  unfold stepDecoderRaise
  split <;> nofun

/-- The machine's own stop stands for the recursion counter of a decoding alone. -/
theorem endDecoding_ne_fault {α : Type} {decoded : Except Stop α} (counted : decoded ≠ .error .fuel)
    (result : α → Forest × Bytes × Result) : endDecoding s (decoded.map result) ≠ .fault f := by
  cases decoded with
  | error e =>
    cases e with
    | raise kind => nofun
    | fuel => exact absurd rfl counted
  | ok a => exact ite_ne_fault f nofun nofun

/-- No instruction stops the machine: the counter of a decoding is always enough (R86), and nothing else could. -/
theorem exec_ne_fault (i : Instr) : exec i s ≠ .fault f := by
  cases g : group i with
  | build =>
    obtain ⟨m, cla, ins, p1, p2, payload, run⟩ := exec_of_build g
    exact run s ▸ build_ne_fault f m cla ins p1 p2 payload
  | reply =>
    rcases exec_of_reply g with ⟨raw, run, -⟩ | refused
    · exact run s ▸ parse_ne_fault f raw
    · exact refused s ▸ nofun
  | query => cases i with
    | rspOkay => exact ite_ne_fault f nofun nofun
    | rspAvail => exact ite_ne_fault f nofun nofun
    | tlvFind key => exact ite_ne_fault f nofun nofun
    | _ => cases g
  | decoding => cases i with
    | tlvOne buf flag => exact ite_ne_fault f nofun (endDecoding_ne_fault f (decodeOne_ne_fuel s.params flag 0 buf) _)
    | tlvList buf flag => exact ite_ne_fault f nofun (endDecoding_ne_fault f (decodeList_ne_fuel s.params flag 0 buf) _)
    | _ => cases g
  | packetForm =>
    obtain ⟨chaining, run⟩ := exec_of_packetForm g
    exact run s ▸ ite_ne_fault f nofun nofun
  | fieldForm =>
    obtain ⟨keep, -, run⟩ := exec_of_fieldForm g
    exact run s ▸ ite_ne_fault f (stepDecoder_ne_fault f _ keep) nofun
  | illegalForm =>
    obtain ⟨kind, run⟩ := exec_of_illegalForm g
    exact run s ▸ ite_ne_fault f (stepDecoderRaise_ne_fault f _ kind) nofun

end

/-- Settles O9: a step does nothing, refuses its request, or runs an instruction. -/
theorem noStepFaults : Obligations.NoStepFaults := by
  intro s f
  unfold step
  split
  · nofun
  next r rest pending =>
    split
    next i ok => exact exec_ne_fault f i
    next => nofun

end Sys2Proof.Proofs
end

section
/-! The lookup (R90 to R92): the search of a forest by its first tree and the rest, as the first match of the pre-order walk and as the
first answer of the roots in order, and what `TLV.FIND` makes of it. -/

namespace Sys2Proof.Proofs

open Sys2Proof.Machine

/-! ## The search -/

/-- The first tree is searched whole before its siblings (R90, R91). -/
theorem findIn_before (key : Half) (n : Node) (rest : Forest) :
    findIn key (n.before rest) = (findNode n key).or (findIn key rest) := by
  rw [Node.before, findIn, findNode]
  split
  · rfl
  · cases findIn key n.subs <;> rfl

/-- The search of a forest is that of its roots in order. -/
theorem findIn_eq_findSome? (key : Half) (f : Forest) :
    findIn key f = f.toList.findSome? (fun n => findNode n key) := by
  induction f with
  | nil => rfl
  | cons tag length value subs rest _ ih_rest =>
    refine (findIn_before key ⟨tag, length, value, subs⟩ rest).trans ?_
    rw [ih_rest, Forest.toList, List.findSome?_cons]
    cases findNode ⟨tag, length, value, subs⟩ key <;> rfl

theorem findIn_eq_find?_preorder (key : Half) (f : Forest) :
    findIn key f = f.preorder.find? (fun n => decide (n.tag = key)) := by
  induction f with
  | nil => rfl
  | cons tag length value subs rest ih_subs ih_rest =>
    refine (findIn_before key ⟨tag, length, value, subs⟩ rest).trans ?_
    rw [findNode, ih_subs, ih_rest, Forest.preorder, List.find?_cons, List.find?_append]
    by_cases root : tag = key
    · simp only [root, ↓reduceIte, decide_true, Option.some_or]
    · simp only [root, ↓reduceIte, decide_false]

/-- Settles O45: the children of a node are a forest, searched root by root. -/
theorem findNodeSearchesChildrenInOrder : Obligations.FindNodeSearchesChildrenInOrder := by
  intro n key
  rw [findNode, findIn_eq_findSome?]

/-- Settles O46: a search without a match says that no node of the walk matches. -/
theorem findIsTheFirstPreorderMatch : Obligations.FindIsTheFirstPreorderMatch := by
  intro f key
  have first_match := findIn_eq_find?_preorder key f
  refine ⟨first_match, ?_⟩
  rw [first_match, List.find?_eq_none]
  simp only [decide_eq_true_eq, ne_eq]

/-! ## The operation -/

section
variable {key : Half} {s : State}

theorem exec_tlvFind_of_fv (fv : s.tlv.fv = true) :
    exec (.tlvFind key) s = .next (finish (.found (findIn key s.tlv.forest)) (writeLookup key (findIn key s.tlv.forest) s)) :=
  if_pos fv

theorem exec_tlvFind_of_not_fv (no_forest : s.tlv.fv = false) : exec (.tlvFind key) s = .refused .noForest :=
  if_neg (by simp [no_forest])

end

/-- Settles O47: a lookup ends as one write of the lookup group, with what the search of the roots in order finds. -/
theorem findWritesKeyHitFound : Obligations.FindWritesKeyHitFound := by
  intro key s
  refine ⟨fun fv => ⟨_, findIn key s.tlv.forest, findIn_eq_findSome? key s.tlv.forest, exec_tlvFind_of_fv fv,
    rfl, rfl, rfl, fun n found => ?_, rfl, rfl, rfl, rfl, rfl, rfl, rfl⟩, exec_tlvFind_of_not_fv⟩
  rw [finish_look, writeLookup_look, found]
  rfl

end Sys2Proof.Proofs
end

section
/-! The transfer sequence `XFER` (R93 to R96): the packets that go out against a list of answers, the reply that is parsed, and what the
build before them leaves. -/

namespace Sys2Proof.Proofs

open Sys2Proof.Machine

/-! ## The exchanges, by the answers before the last one looked at -/

/-- Every packet goes out when each has its reply (R94). -/
theorem packetsSent_of_answered {packets replies : List Bytes} (one_each : replies.length = packets.length) :
    packetsSent packets (replies.map some) = packets := by
  induction packets generalizing replies with
  | nil => rfl
  | cons p ps ih =>
    cases replies with
    | nil => cases one_each
    | cons r replies => exact congrArg (p :: ·) (ih (Nat.succ.inj one_each))

/-- The packet whose exchange fails is the last one sent (R96). -/
theorem packetsSent_of_failed {packets earlier : List Bytes} (some_left : earlier.length < packets.length)
    (rest : List (Option Bytes)) :
    packetsSent packets (earlier.map some ++ none :: rest) = packets.take (earlier.length + 1) := by
  induction packets generalizing earlier with
  | nil => cases some_left
  | cons p ps ih =>
    cases earlier with
    | nil => rfl
    | cons r earlier => exact congrArg (p :: ·) (ih (Nat.lt_of_succ_lt_succ some_left))

/-- The replies before the last packet's are dropped unread (R95). -/
theorem lastReply_of_answered {packets earlier : List Bytes} (one_each : earlier.length + 1 = packets.length)
    (reply : Bytes) : lastReply packets (earlier.map some ++ [some reply]) = some reply := by
  induction earlier generalizing packets with
  | nil =>
    obtain ⟨p, rfl⟩ := List.length_eq_one_iff.mp one_each.symm
    rfl
  | cons r earlier ih =>
    match packets, one_each with
    | p :: q :: ps, one_each => exact ih (Nat.succ.inj one_each)

/-- A failed exchange leaves no reply to parse (R96). -/
theorem lastReply_of_failed {packets earlier : List Bytes} (some_left : earlier.length < packets.length)
    (rest : List (Option Bytes)) :
    lastReply packets (earlier.map some ++ none :: rest) = none := by
  induction earlier generalizing packets with
  | nil =>
    match packets, some_left with
    | [_], _ => rfl
    | _ :: _ :: _, _ => rfl
  | cons r earlier ih =>
    match packets, some_left with
    | p :: q :: ps, some_left => exact ih (Nat.lt_of_succ_lt_succ some_left)

/-! ## The build before the exchanges -/

section
variable {extended : Bool} {cla ins p1 p2 : Byte} {payload : Bytes} {s t : State}
  (built : exec (if extended then .frmBuildx cla ins p1 p2 payload else .frmBuild cla ins p1 p2 payload) s = .next t)
include built

/-- The build of a transfer counts its packets, clears `ERR` and leaves the response group (R16, R24). -/
theorem build_before_exchanges : t.cmd.pktn = t.cmd.pktq.length ∧ t.err = none ∧ t.rsp = s.rsp := by
  have run : build extended cla ins p1 p2 payload s = .next t := by
    cases extended <;> exact built
  obtain ⟨-, rfl⟩ := build_next run
  exact ⟨rfl, rfl, rfl⟩

theorem hostXfer_of_reply {answers : List (Option Bytes)} {reply : Bytes} (last : lastReply t.cmd.pktq answers = some reply) :
    hostXfer extended cla ins p1 p2 payload answers s = exec (.rspParse reply) t := by
  simp only [hostXfer, built, last]

theorem hostXfer_of_no_reply {answers : List (Option Bytes)} (failed : lastReply t.cmd.pktq answers = none) :
    hostXfer extended cla ins p1 p2 payload answers s = .next t := by
  simp only [hostXfer, built, failed]

end

/-- Settles O55: the answers are one per packet, so all packets go out and the reply to the last is the one parsed. -/
theorem xferParsesOnlyTheLastReply : Obligations.XferParsesOnlyTheLastReply := by
  intro extended cla ins p1 p2 payload reply earlier s t built one_each
  obtain ⟨counted, -, -⟩ := build_before_exchanges built
  rw [counted] at one_each
  refine ⟨?_, hostXfer_of_reply built (lastReply_of_answered one_each reply)⟩
  have sent := packetsSent_of_answered (replies := earlier ++ [reply]) (List.length_append.trans one_each)
  rwa [List.map_append] at sent

/-- Settles O56: the exchange that fails is one of a packet of the build, so no reply is left to parse and the build's state stands. -/
theorem xferEndsAtATransportFailure : Obligations.XferEndsAtATransportFailure := by
  intro extended cla ins p1 p2 payload earlier rest s t built some_left
  obtain ⟨counted, no_error, response_kept⟩ := build_before_exchanges built
  rw [counted] at some_left
  exact ⟨packetsSent_of_failed some_left rest, hostXfer_of_no_reply built (lastReply_of_failed some_left rest), no_error,
    response_kept⟩

end Sys2Proof.Proofs
end

section
/-! Faults and refusals (R98 to R107): which kinds an operation can raise, which bytes raise them whatever follows, and operands over a
capacity. -/

namespace Sys2Proof.Proofs

open Sys2Proof.Machine Sys2Proof.Safety

/-! ## The kinds a decoding raises -/

/-- A fault kind of the TLV decoder (R99 to R102): any but `TooShortReply`, and not the recursion counter. -/
def IsTlvFault (e : Stop) : Prop := ∃ kind, e = .raise kind ∧ kind ≠ .tooShortReply

theorem StepStops.isTlvFault {buf : Bytes} {e : Stop} (stops : StepStops buf e) : IsTlvFault e := by
  rcases stops.kind with rfl | rfl | rfl <;> exact ⟨_, rfl, nofun⟩

section
variable {p : Config.Params} {flag : Bool} {depth : Nat} {buf : Bytes} {e : Stop}

theorem decodeOne_isTlvFault_of_value (stops : decodeOne p flag depth buf = .error e)
    (in_value : ∀ value, value.length + 2 ≤ buf.length → decodeList p flag (depth + 1) value = .error e → IsTlvFault e) :
    IsTlvFault e := by
  rcases decodeOneWith_error stops with step | ⟨-, value, shorter, ⟨rfl, -⟩ | value_stops⟩
  · exact step.isTlvFault
  · exact ⟨.depthExceeded, rfl, nofun⟩
  · exact in_value value shorter value_stops

theorem decodeList_isTlvFault (stops : decodeList p flag depth buf = .error e) : IsTlvFault e :=
  decodeList_stop_induction (motive := fun _ _ => IsTlvFault e) (fun _ _ => decodeOne_isTlvFault_of_value)
    (fun _ _ _ _ ih => ih) depth buf stops

theorem decodeOne_isTlvFault (stops : decodeOne p flag depth buf = .error e) : IsTlvFault e :=
  decodeOne_isTlvFault_of_value stops fun _ _ => decodeList_isTlvFault

end

/-! ## Which operation raises which kind -/

section
variable {s : State} {kind : FaultKind}

theorem raise_inj {k : FaultKind} (h : raise kind s = raise k s) : kind = k := by
  simpa using congrArg State.err h

theorem raise_ne_finish (r : Result) (t : State) : raise kind s ≠ finish r t := by
  intro h
  simpa using congrArg State.outcome h

/-- A decoding operation that takes a fault takes that of its decoding (R103). -/
theorem endDecoding_raise {α : Type} {decoded : Except Stop α} {result : α → Forest × Bytes × Result}
    (h : endDecoding s (decoded.map result) = .next (raise kind s)) : decoded = .error (.raise kind) := by
  rcases endDecoding_next h with ⟨k, stops, same⟩ | ⟨_, _, r, -, -, done⟩
  · cases decoded with
    | ok a => cases stops
    | error e => cases stops; rw [raise_inj same]
  · exact absurd done (raise_ne_finish r _)

theorem decoding_kind {i : Instr} (g : group i = .decoding) (h : exec i s = .next (raise kind s)) : kind ≠ .tooShortReply := by
  have tlv : IsTlvFault (.raise kind) := by
    cases i with
    | tlvOne buf flag => exact decodeOne_isTlvFault (endDecoding_raise (ite_refused_next h).2)
    | tlvList buf flag => exact decodeList_isTlvFault (endDecoding_raise (ite_refused_next h).2)
    | _ => cases g
  obtain ⟨k, same, tlv_kind⟩ := tlv
  cases same
  exact tlv_kind

theorem illegalForm_kind {i : Instr} (g : group i = .illegalForm) (h : exec i s = .next (raise kind s)) :
    kind ≠ .tooShortReply := by
  cases i with
  | tagBad b0 b1 => rw [raise_inj (stepDecoderRaise_next (ite_next h).2)]; nofun
  | lenBad l0 => rw [raise_inj (stepDecoderRaise_next (ite_next h).2)]; nofun
  | _ => cases g

end

/-- Settles O11: an effect on a register group ends the operation, and the other effects of an operation are fault entry. -/
theorem aFaultWritesOnlyErr : Obligations.AFaultWritesOnlyErr := by
  intro i s t h not_packet not_field
  simp only [isPacketForm_eq, isFieldForm_eq, isQuery_eq, isDecoding_eq, isIllegalForm_eq, decide_eq_true_eq,
    decide_eq_false_iff_not] at not_packet not_field ⊢
  cases exec_effect h with
  | built _ _ _ _ _ _ g => exact .inl ⟨_, rfl, by simp [g]⟩
  | replied _ _ _ g => exact .inl ⟨_, rfl, by simp [g]⟩
  | answered result is_query => exact .inl ⟨result, rfl, by rcases is_query with rfl | rfl <;> simp [group]⟩
  | lookedUp key is_find => exact .inl ⟨_, rfl, by simp [is_find, group]⟩
  | decoded _ _ result g => exact .inl ⟨result, rfl, by simp [g]⟩
  | replyTooShort raw is_parse => exact .inr ⟨.tooShortReply, rfl, fun _ => ⟨raw, is_parse⟩, fun other => absurd rfl other⟩
  | decodingFaulted kind g => exact .inr ⟨kind, rfl, fun short => absurd short (decoding_kind g h), fun _ => .inl g⟩
  | illegalRaised kind g => exact .inr ⟨kind, rfl, fun short => absurd short (illegalForm_kind g h), fun _ => .inr g⟩
  | packetWritten _ g => exact absurd g not_packet
  | fieldPassed _ _ _ g => exact absurd g not_field

/-! ## `TooShortReply` -/

theorem errCode_eq_one_iff (e : Option FaultKind) : errCode e = 1 ↔ e = some .tooShortReply := by
  rcases e with _ | kind
  · decide
  · cases kind <;> decide

theorem splitReply_eq_none_iff (raw : Bytes) : splitReply raw = none ↔ raw.length < 2 := by
  simp [splitReply]

/-- An operation that does not parse a reply leaves `TooShortReply` only where it found it (R98). -/
theorem err_ne_tooShortReply {i : Instr} {s t : State} (no_parse : ∀ raw, i ≠ .rspParse raw)
    (before : s.err ≠ some .tooShortReply) (h : exec i s = .next t) : t.err ≠ some .tooShortReply := by
  obtain ⟨-, -, -, -, -, -, kept, -⟩ := accessTable i s t h
  cases field : isFieldForm i with
  | true => rwa [kept (.inr (.inl field))]
  | false =>
    cases packet : isPacketForm i with
    | true => rwa [kept (.inr (.inr packet))]
    | false =>
      rcases aFaultWritesOnlyErr i s t h packet field with ⟨_, -, err⟩ | ⟨kind, rfl, short, -⟩
      · rw [err]
        split
        · exact before
        · nofun
      · rintro ⟨⟩
        obtain ⟨raw, parse⟩ := short rfl
        exact no_parse raw parse

/-- Settles O22: a parse raises below two bytes and writes no fault above, and no other operation raises this kind (O11). -/
theorem tooShortReplyExactly : Obligations.TooShortReplyExactly := by
  simp only [Obligations.TooShortReplyExactly, ne_eq, errCode_eq_one_iff]
  refine ⟨fun raw s fits short => ⟨_, parse_of_lt fits short, rfl, rfl⟩, fun raw s t h => ?_, fun i s t => err_ne_tooShortReply⟩
  rw [← splitReply_eq_none_iff]
  rcases parse_next h with ⟨too_short, rfl⟩ | ⟨_, _, _, cut, rfl⟩
  · simp [too_short]
  · simp [cut]

/-! ## Where the fields of an object stop -/

/-- A tag field of one byte or of two (R59, R60). -/
def LegalTagField (tagBytes : Bytes) : Prop :=
  (∃ b0 : Byte, tagBytes = [b0] ∧ b0.toNat % 32 ≠ 31) ∨
    ∃ b0 b1 : Byte, tagBytes = [b0, b1] ∧ b0.toNat % 32 = 31 ∧ b1.toNat % 32 ≠ 31

theorem decodeTag_of_legal {tagBytes : Bytes} (legal : LegalTagField tagBytes) (rest : Bytes) :
    ∃ tag c, decodeTag (tagBytes ++ rest) 0 = .ok (tag, c, tagBytes.length) := by
  rcases legal with ⟨b0, rfl, one⟩ | ⟨b0, b1, rfl, two, good⟩
  · obtain ⟨-, read, -⟩ := tagStep ([b0] ++ rest) 0
    exact ⟨_, _, read b0 rfl one⟩
  · obtain ⟨-, -, -, -, read⟩ := tagStep ([b0, b1] ++ rest) 0
    exact ⟨_, _, read b0 b1 rfl two rfl good⟩

section
variable {tagBytes rest : Bytes} (legal : LegalTagField tagBytes)
include legal

theorem stepStops_of_lenStop {e : Stop} (stops : decodeLen rest 0 = .error e) : StepStops (tagBytes ++ rest) e := by
  obtain ⟨tag, c, tag_read⟩ := decodeTag_of_legal legal rest
  have here := decodeLen_append tagBytes rest 0
  rw [stops] at here
  exact .inr ⟨tag, c, _, tag_read, .inl here⟩

/-- The value step stops where fewer bytes stand behind the length field than it says (R83, R101 (e)). -/
theorem stepStops_of_short_value {length : Half} {lenSize : Nat} {value : Bytes}
    (len_read : decodeLen rest 0 = .ok (length, lenSize)) (size : rest.length = lenSize + value.length)
    (short : value.length < length.toNat) : StepStops (tagBytes ++ rest) (.raise .truncated) := by
  obtain ⟨tag, c, tag_read⟩ := decodeTag_of_legal legal rest
  have here := decodeLen_append tagBytes rest 0
  rw [len_read] at here
  have total : (tagBytes ++ rest).length = tagBytes.length + (lenSize + value.length) := by rw [List.length_append, size]
  obtain ⟨-, truncated⟩ := valueStep (tagBytes ++ rest) (tagBytes.length + lenSize) length (by omega)
  exact .inr ⟨tag, c, _, tag_read, .inr ⟨length, _, here, truncated (by omega)⟩⟩

end

/-! ## Illegal bytes -/

/-- A byte whose low five bits are all set is not the filler 0x00, and one where they are not is not the filler 0xFF (R66). -/
theorem ne_fill0_of_lowFive {b : Byte} (two : b.toNat % 32 = 31) : b ≠ 0x00 := by
  rintro rfl
  simp at two

theorem ne_fillF_of_lowFive {b : Byte} (one : b.toNat % 32 ≠ 31) : b ≠ 0xFF := by
  rintro rfl
  simp at one

/-- What stops the first object of a buffer stops both decodings, `TLV.LIST`'s where the first byte is not filler (O58). -/
theorem decodings_stop {b0 : Byte} {rest : Bytes} {e : Stop} (stops : StepStops (b0 :: rest) e)
    (p : Config.Params) (flag : Bool) (depth : Nat) :
    decodeOne p flag depth (b0 :: rest) = .error e ∧
      (b0 ≠ 0x00 → b0 ≠ 0xFF → decodeList p flag depth (b0 :: rest) = .error e) := by
  simpa using stepFaultIsTheObjectsFault p flag depth (b0 :: rest) e stops

/-- Settles O36: the tag step stops on two bytes alone, and the length step on the first length byte alone. -/
theorem illegalBytesFaultWhateverFollows : Obligations.IllegalBytesFaultWhateverFollows := by
  intro p flag depth b0 b1 l0 rest
  have lenStop (bad : l0.toNat = 0x80 ∨ 0x83 ≤ l0.toNat) : decodeLen (l0 :: rest) 0 = .error (.raise .badLength) :=
    decodeLen_bad rfl ((isBadLength_iff l0).mpr bad)
  refine ⟨fun two bad => ?_, fun one bad => ?_, fun two good bad => ?_⟩
  · obtain ⟨-, -, -, illegal, -⟩ := tagStep (b0 :: b1 :: rest) 0
    exact (decodings_stop (.inl (illegal b0 b1 rfl two rfl bad)) p flag depth).imp_right
      fun list => list (ne_fill0_of_lowFive two)
  · exact (decodings_stop (stepStops_of_lenStop (.inl ⟨b0, rfl, one⟩) (lenStop bad)) p flag depth).imp_right
      fun list not_0x00 => list not_0x00 (ne_fillF_of_lowFive one)
  · exact (decodings_stop (stepStops_of_lenStop (.inr ⟨b0, b1, rfl, two, good⟩) (lenStop bad)) p flag depth).imp_right
      fun list => list (ne_fill0_of_lowFive two)

/-! ## Buffers that end too early -/

/-- The ends of a buffer behind a tag field of R101 (c) to (e): in the length field, or in the value. -/
def EndsEarly (rest : Bytes) : Prop :=
  rest = [] ∨ rest = [0x81] ∨ rest = [0x82] ∨ (∃ l1 : Byte, rest = [0x82, l1]) ∨
    (∃ (l0 : Byte) (value : Bytes), rest = l0 :: value ∧ l0.toNat < 0x80 ∧ value.length < l0.toNat) ∨
    (∃ (l1 : Byte) (value : Bytes), rest = 0x81 :: l1 :: value ∧ value.length < l1.toNat) ∨
    ∃ (l1 l2 : Byte) (value : Bytes), rest = 0x82 :: l1 :: l2 :: value ∧ value.length < l1.toNat * 256 + l2.toNat

theorem stepStops_of_endsEarly {tagBytes rest : Bytes} (legal : LegalTagField tagBytes) (ends : EndsEarly rest) :
    StepStops (tagBytes ++ rest) (.raise .truncated) := by
  rcases ends with rfl | rfl | rfl | ⟨l1, rfl⟩ | ⟨l0, value, rfl, short_form, few⟩ | ⟨l1, value, rfl, few⟩ | ⟨l1, l2, value, rfl, few⟩
  · exact stepStops_of_lenStop legal rfl
  · exact stepStops_of_lenStop legal rfl
  · exact stepStops_of_lenStop legal rfl
  · exact stepStops_of_lenStop legal rfl
  · have len_read : decodeLen (l0 :: value) 0 = .ok (zext16 l0, 1) :=
      (decodeLen_of_first rfl).trans (if_pos ((isShortLength_iff l0).mpr short_form))
    exact stepStops_of_short_value legal len_read (Nat.add_comm _ 1) (by rwa [zext16_toNat])
  · have len_read : decodeLen (0x81 :: l1 :: value) 0 = .ok (zext16 l1, 2) := rfl
    exact stepStops_of_short_value legal len_read (Nat.add_comm _ 2) (by rwa [zext16_toNat])
  · have len_read : decodeLen (0x82 :: l1 :: l2 :: value) 0 = .ok (bigEndian l1 l2, 3) := rfl
    exact stepStops_of_short_value legal len_read (Nat.add_comm _ 3) (by rwa [bigEndian_toNat])

/-- Settles O37: the tag step finds no byte or no second one, or the length or value step behind a legal tag finds too few; filler is
skipped in front of nothing. -/
theorem shortBuffersAndFillerAlone : Obligations.ShortBuffersAndFillerAlone := by
  intro p flag depth
  refine ⟨decodeOne_nil p flag depth, fun filler is_filler => ?_, fun b two => ?_, fun tagBytes rest legal ends => ?_⟩
  · have skipped := decodeList_filler_append p flag depth is_filler []
    rwa [List.append_nil] at skipped
  · obtain ⟨-, -, missing, -⟩ := tagStep [b] 0
    exact (decodings_stop (.inl (missing b rfl two rfl)) p flag depth).imp_right fun list => list (ne_fill0_of_lowFive two)
  · have object := stepFaultIsTheObjectsFault p flag depth (tagBytes ++ rest) _ (stepStops_of_endsEarly legal ends)
    rcases legal with ⟨b0, rfl, -⟩ | ⟨b0, b1, rfl, -⟩ <;> simpa using object

/-! ## Operands over a capacity -/

theorem exceeds_eq_true {n m : Nat} {bound : Option Nat} (finite : bound = some m) (beyond : m < n) :
    exceeds n bound = true := by
  rw [finite]
  exact decide_eq_true beyond

theorem endDecoding_tooManyNodes {s : State} {forest : Forest} {n : Nat} (finite : s.params.nodeMax = some n)
    (beyond : n < forest.count) (remainder : Bytes) (result : Result) :
    endDecoding s (.ok (forest, remainder, result)) = .refused .tooManyNodes :=
  if_pos (exceeds_eq_true finite beyond)

/-- Settles O13: each capacity is checked before anything is written, the nodes once the decoding has answered. -/
theorem overCapacityIsRefused : Obligations.OverCapacityIsRefused := by
  refine fun s => ⟨fun cla ins p1 p2 payload long => ?_, fun raw n finite beyond => ?_, fun buf flag n finite beyond => ?_,
    fun buf flag n fits finite => ⟨fun node remainder one beyond => ?_, fun f nodes beyond => ?_⟩⟩
  · exact ⟨build_of_lt false cla ins p1 p2 long s, build_of_lt true cla ins p1 p2 long s⟩
  · exact if_pos (exceeds_eq_true finite beyond)
  · exact ⟨if_pos (exceeds_eq_true finite beyond), if_pos (exceeds_eq_true finite beyond)⟩
  · rw [exec_tlvOne_of_fits fits, one]
    exact endDecoding_tooManyNodes (forest := node.alone) finite beyond remainder (.one node remainder)
  · rw [exec_tlvList_of_fits fits, nodes]
    exact endDecoding_tooManyNodes finite beyond [] (.forest f)

end Sys2Proof.Proofs
end

section
/-! A reset by the host while a lone form has left something in flight (R111, R12). -/

namespace Sys2Proof.Proofs

open Sys2Proof.Machine

/-- Settles O57: the guard of the reset wants neither a build nor a decoding in flight, and one of the two is. -/
theorem resetInFlightIsRefused : Obligations.ResetInFlightIsRefused := by
  intro s in_flight
  refine if_neg fun idle => ?_
  rw [Bool.and_eq_true, Option.isNone_iff_eq_none, Option.isNone_iff_eq_none] at idle
  obtain ⟨no_build, no_decoding⟩ := idle
  rcases in_flight with building | decoding
  · exact building no_build
  · exact decoding no_decoding

end Sys2Proof.Proofs
end

section
/-! The other direction of the round trip (R46 to R66): what each space's decoder answers is encoded as the bytes it read. -/

namespace Sys2Proof.Proofs

open Sys2Proof.Machine

/-! ## Fields that carry a number -/

theorem lowByte_of_toNat (b : Byte) : lowByte b.toNat = b := by
  rw [lowByte, BitVec.ofNat_toNat, BitVec.setWidth_eq]

theorem lowByte_bigEndian (hi lo : Byte) : lowByte (bigEndian hi lo).toNat = lo := by
  refine BitVec.eq_of_toNat_eq ?_
  rw [lowByte_toNat, bigEndian_toNat]
  omega

theorem highByte_bigEndian (hi lo : Byte) : highByte (bigEndian hi lo).toNat = hi := by
  refine BitVec.eq_of_toNat_eq ?_
  rw [highByte_toNat, bigEndian_toNat]
  omega

theorem flagByte_of_decodeFlag {b : Byte} {flag : Bool} (h : decodeFlag b = .ok flag) : flagByte flag = b := by
  unfold decodeFlag at h
  split at h
  next zero => cases h; exact zero.symm
  next =>
    split at h
    next one => cases h; exact one.symm
    next => cases h

/-- A TLV request is read behind its flag byte (R46). -/
theorem exists_flag_of_map {b : Byte} {form : Bool → Instr} {i : Instr} (h : (decodeFlag b).map form = .ok i) :
    ∃ flag, flagByte flag = b ∧ form flag = i := by
  cases read : decodeFlag b with
  | error why => rw [read] at h; cases h
  | ok flag => rw [read] at h; cases h; exact ⟨flag, flagByte_of_decodeFlag read, rfl⟩

/-! ## Space by space -/

/-- The select byte is the number of the operation answered, and a key of 16 bits is its two bytes (R33, R46). -/
theorem encode_of_decodeOp {bytes : Bytes} {i : Instr} (h : decodeOp bytes = .ok i) : encode i = ⟨.op, bytes⟩ := by
  unfold decodeOp at h
  split at h
  · cases h
  next sel operands =>
    have select {k : Nat} (read : sel.toNat = k) : sel = lowByte k := by rw [← read, lowByte_of_toNat]
    split at h
    next build => cases h; rw [select build]; rfl
    next => cases h
    next buildx => cases h; rw [select buildx]; rfl
    next => cases h
    next parse => cases h; rw [select parse]; rfl
    next okay => cases h; rw [select okay]; rfl
    next => cases h
    next avail => cases h; rw [select avail]; rfl
    next => cases h
    next one => obtain ⟨flag, rfl, rfl⟩ := exists_flag_of_map h; rw [select one]; rfl
    next => cases h
    next list => obtain ⟨flag, rfl, rfl⟩ := exists_flag_of_map h; rw [select list]; rfl
    next => cases h
    next hi lo find => cases h; rw [select find, encode, highByte_bigEndian, lowByte_bigEndian]; rfl
    next => cases h
    next => cases h
    next => cases h

/-- The length byte of a packet is rebuilt from the slice it announces (R48, R49). -/
theorem encode_of_decodeChained {last : Bool} {bytes : Bytes} {i : Instr} (h : decodeChained last bytes = .ok i) :
    encode i = ⟨.chained last, bytes⟩ := by
  unfold decodeChained at h
  split at h
  next cla ins p1 p2 lc block =>
    split at h
    · cases h
    next announced =>
      split at h
      next is_last =>
        split at h
        · cases h
          rw [is_last, encode, shortPacket_eq, not_not.mp announced, lowByte_of_toNat]
          rfl
        · cases h
      next not_last =>
        split at h
        next literal =>
          cases h
          rw [Bool.eq_false_iff.mpr not_last, literal.1, literal.2]
          rfl
        · cases h
  · cases h
  · cases h

/-- Behind the marker the two length bytes are rebuilt from the payload, otherwise the one length byte is (R50, R51). -/
theorem encode_of_decodeExtended {bytes : Bytes} {i : Instr} (h : decodeExtended bytes = .ok i) :
    encode i = ⟨.extended, bytes⟩ := by
  unfold decodeExtended at h
  split at h
  next cla ins p1 p2 lc rest =>
    split at h
    next marked =>
      split at h
      next hi lo payload =>
        split at h
        next announced =>
          cases h
          rw [encode, longPacket_eq, announced, highByte_bigEndian, lowByte_bigEndian, marked.1]
          rfl
        · cases h
      · cases h
    · split at h
      next announced =>
        cases h
        rw [encode, shortPacket_eq, announced, lowByte_of_toNat]
        rfl
      · cases h
  · cases h
  · cases h

theorem eq_append_of_splitReply {raw data : Bytes} {sw1 sw2 : Byte} (cut : splitReply raw = some (data, sw1, sw2)) :
    data ++ [sw1, sw2] = raw := by
  have two_bytes : ¬ raw.length < 2 := fun short => by simp [splitReply_of_lt short] at cut
  obtain ⟨data', a, b, rfl⟩ := exists_eq_append_status (Nat.not_lt.mp two_bytes)
  rw [splitReply_append] at cut
  cases cut
  rfl

theorem encode_of_decodeReply {bytes : Bytes} {i : Instr} (h : decodeReply bytes = .ok i) :
    encode i = ⟨.reply, bytes⟩ := by
  unfold decodeReply at h
  split at h
  next cut => cases h; exact congrArg (Request.mk .reply) (eq_append_of_splitReply cut)
  · cases h

/-- The two literal classes give back the bytes they were matched against (R56). -/
theorem encode_classifyStatus (sw1 sw2 : Byte) : encode (classifyStatus sw1 sw2) = ⟨.status, [sw1, sw2]⟩ := by
  unfold classifyStatus
  split
  next ok =>
    obtain ⟨first, second⟩ := Bool.and_eq_true_iff.mp ok
    rw [beq_iff_eq.mp first, beq_iff_eq.mp second]
    rfl
  next =>
    split
    next more => rw [beq_iff_eq.mp more]; rfl
    next => rfl

theorem encode_of_decodeStatus {bytes : Bytes} {i : Instr} (h : decodeStatus bytes = .ok i) :
    encode i = ⟨.status, bytes⟩ := by
  match bytes with
  | [] | [_] | _ :: _ :: _ :: _ => cases h
  | [sw1, sw2] => cases h; exact encode_classifyStatus sw1 sw2

theorem encode_of_decodeTagField {bytes : Bytes} {i : Instr} (h : decodeTagField bytes = .ok i) :
    encode i = ⟨.tag, bytes⟩ := by
  unfold decodeTagField at h
  split at h
  · cases h
  next b0 => split at h <;> cases h; rfl
  next b0 b1 =>
    split at h
    · cases h
    · split at h <;> cases h <;> rfl
  · cases h

theorem encode_of_decodeLenField {bytes : Bytes} {i : Instr} (h : decodeLenField bytes = .ok i) :
    encode i = ⟨.len, bytes⟩ := by
  unfold decodeLenField at h
  split at h
  · cases h
  next l0 =>
    split at h
    · cases h; rfl
    · split at h <;> cases h; rfl
  next l0 l1 =>
    split at h
    next one => cases h; rw [one]; rfl
    · split at h <;> cases h
  next l0 l1 l2 =>
    split at h
    next two => cases h; rw [two]; rfl
    · cases h
  · cases h

theorem encode_of_decodeFill {bytes : Bytes} {i : Instr} (h : decodeFill bytes = .ok i) : encode i = ⟨.fill, bytes⟩ := by
  unfold decodeFill at h
  split at h
  · cases h
  next b =>
    split at h
    next zero => cases h; rw [zero]; rfl
    · split at h
      next ones => cases h; rw [ones]; rfl
      · cases h
  · cases h

/-- Settles O3, space by space: every field the decoder checks and drops (select, length bytes, literals) is fixed by what it answers. -/
theorem encodeOfDecodedIsTheRequest : Obligations.EncodeOfDecodedIsTheRequest := by
  rintro ⟨space, bytes⟩ i h
  cases space with
  | op => exact encode_of_decodeOp h
  | chained last => exact encode_of_decodeChained h
  | extended => exact encode_of_decodeExtended h
  | reply => exact encode_of_decodeReply h
  | status => exact encode_of_decodeStatus h
  | tag => exact encode_of_decodeTagField h
  | len => exact encode_of_decodeLenField h
  | fill => exact encode_of_decodeFill h

end Sys2Proof.Proofs
end
